-- ==== Sys2Proof/Word.lean ====
section
/-! DEFINITION. The bit strings of the machine: bytes, 16-bit words and the operand fields of an instruction word
(spec/00_scope.md R5, R7; spec/30_encoding.md R61, R63). Everything is unsigned (R7). -/

namespace Sys2Proof

/-- A byte: a general register, a timer, a byte of memory, the immediate `kk` (R5, R61). -/
abbrev Byte := BitVec 8

/-- A 16-bit word: PC, I, a stack slot, `tval`, an instruction word (R5, R60). -/
abbrev Word := BitVec 16

/-- A 4-bit field of an instruction word: `op`, `x`, `y`, `n` (R61). -/
abbrev Nibble := BitVec 4

/-- The number of a general register, 0 to 15 (R10, R63). -/
abbrev RegId := BitVec 4

/-- The 12-bit address immediate `nnn` (R61). -/
abbrev Addr12 := BitVec 12

/-- `zext_16` of a byte (R7, R63). -/
abbrev zext8 (b : Byte) : Word := b.setWidth 16

/-- `zext_16` of an address immediate (R7, R63). -/
abbrev zext12 (a : Addr12) : Word := a.setWidth 16

/-- The number of the flag register VF, which is `V[15]` (R11). -/
abbrev regVF : RegId := 15#4

end Sys2Proof
end

