-- ==== Sys2Proof/Syntax.lean ====
section
/-! DEFINITION. The 34 instructions of spec/30_encoding.md R66, one constructor per row of spec/opcode_table.json, in
the table's order, with the operand fields the row gives. -/

namespace Sys2Proof

inductive Instr where
  /-- `00E0` CLS (R131) -/
  | cls
  /-- `00EE` RET (R91) -/
  | ret
  /-- `1nnn` JP addr (R92) -/
  | jpAddr (nnn : Addr12)
  /-- `2nnn` CALL addr (R93) -/
  | callAddr (nnn : Addr12)
  /-- `3xkk` SE Vx, byte (R94) -/
  | seVxByte (x : RegId) (kk : Byte)
  /-- `4xkk` SNE Vx, byte (R95) -/
  | sneVxByte (x : RegId) (kk : Byte)
  /-- `5xy-` SE Vx, Vy (R96); the low nibble is ignored (R65, R67) -/
  | seVxVy (x y : RegId)
  /-- `6xkk` LD Vx, byte (R101) -/
  | ldVxByte (x : RegId) (kk : Byte)
  /-- `7xkk` ADD Vx, byte (R102) -/
  | addVxByte (x : RegId) (kk : Byte)
  /-- `8xy0` LD Vx, Vy (R103) -/
  | ldVxVy (x y : RegId)
  /-- `8xy1` OR Vx, Vy (R104) -/
  | orVxVy (x y : RegId)
  /-- `8xy2` AND Vx, Vy (R105) -/
  | andVxVy (x y : RegId)
  /-- `8xy3` XOR Vx, Vy (R106) -/
  | xorVxVy (x y : RegId)
  /-- `8xy4` ADD Vx, Vy (R107) -/
  | addVxVy (x y : RegId)
  /-- `8xy5` SUB Vx, Vy (R108) -/
  | subVxVy (x y : RegId)
  /-- `8xy6` SHR Vx, with the field `y` read only at `SHIFT_SRC = vy` (R109) -/
  | shrVx (x y : RegId)
  /-- `8xy7` SUBN Vx, Vy (R110) -/
  | subnVxVy (x y : RegId)
  /-- `8xyE` SHL Vx, with the field `y` read only at `SHIFT_SRC = vy` (R111) -/
  | shlVx (x y : RegId)
  /-- `9xy-` SNE Vx, Vy (R97); the low nibble is ignored (R65, R67) -/
  | sneVxVy (x y : RegId)
  /-- `Annn` LD I, addr (R121) -/
  | ldIAddr (nnn : Addr12)
  /-- `Bnnn` JP Vx, addr (R98); `x` is the top digit of `nnn` (R67) -/
  | jpVxAddr (x : RegId) (nnn : Addr12)
  /-- `Cxkk` RND Vx, byte (R112) -/
  | rndVxByte (x : RegId) (kk : Byte)
  /-- `Dxyn` DRW Vx, Vy, nibble (R132) -/
  | drwVxVyNibble (x y : RegId) (n : Nibble)
  /-- `Ex9E` SKP Vx (R141) -/
  | skpVx (x : RegId)
  /-- `ExA1` SKNP Vx (R142) -/
  | sknpVx (x : RegId)
  /-- `Fx07` LD Vx, DT (R143) -/
  | ldVxDT (x : RegId)
  /-- `Fx0A` LD Vx, K (R144) -/
  | ldVxK (x : RegId)
  /-- `Fx15` LD DT, Vx (R146) -/
  | ldDTVx (x : RegId)
  /-- `Fx18` LD ST, Vx (R147) -/
  | ldSTVx (x : RegId)
  /-- `Fx1E` ADD I, Vx (R122) -/
  | addIVx (x : RegId)
  /-- `Fx29` LD F, Vx (R123) -/
  | ldFVx (x : RegId)
  /-- `Fx33` LD B, Vx (R124) -/
  | ldBVx (x : RegId)
  /-- `Fx55` LD [I], Vx (R125) -/
  | ldMemVx (x : RegId)
  /-- `Fx65` LD Vx, [I] (R126) -/
  | ldVxMem (x : RegId)
  deriving DecidableEq, Repr

end Sys2Proof
end

