-- ==== Sys2Proof/WellFormed.lean ====
section
/-! DEFINITION. Which instruction terms stand for an instruction word. Every operand field is bounded by its type; the
one relation between fields is that of JP Vx, addr, whose `x` is the top digit of its `nnn` (spec/30_encoding.md R67:
"the assembler must refuse `JP Vx, addr` when x is not the top digit of addr", R70). -/

namespace Sys2Proof

/-- The top digit of an address immediate: bits 11 to 8 of the instruction word (R61, R67). -/
def topDigit (nnn : Addr12) : RegId := nnn.extractLsb' 8 4

/-- A term an instruction word exists for (R67, R70). -/
def Instr.wf : Instr → Bool
  | .jpVxAddr x nnn => x == topDigit nnn
  | _ => true

end Sys2Proof
end

