-- ==== Sys2Proof/Decode.lean ====
section
/-! DEFINITION. Decoding an instruction word (spec/30_encoding.md R61 to R69), total, rejecting by name; the encoder
written from the same table R66; and the rows' `match` and `mask` as the table gives them. -/

namespace Sys2Proof

/-! ## The fields of the word (R61) -/

/-- `op`, the primary class, `w[15:12]`. -/
def opField (w : Word) : Nibble := w.extractLsb' 12 4
/-- `x`, the first register number, `w[11:8]`. -/
def xField (w : Word) : RegId := w.extractLsb' 8 4
/-- `y`, the second register number, `w[7:4]`. -/
def yField (w : Word) : RegId := w.extractLsb' 4 4
/-- `n`, the immediate nibble or the secondary field of class 8, `w[3:0]`. -/
def nField (w : Word) : Nibble := w.extractLsb' 0 4
/-- `kk`, the immediate byte or the secondary field of classes E and F, `w[7:0]`. -/
def kkField (w : Word) : Byte := w.extractLsb' 0 8
/-- `nnn`, the address immediate, `w[11:0]`. -/
def nnnField (w : Word) : Addr12 := w.extractLsb' 0 12

/-! ## Decoding -/

/-- Why a word, or a string of bytes, is no instruction. The first four are the decode failures of R68, one for each
class with a secondary dispatch; the last is a string of bytes too short to hold a word (R60), which a fetch never
meets. -/
inductive DecodeFailure where
  | class0 (w : Word)
  | class8 (w : Word)
  | classE (w : Word)
  | classF (w : Word)
  | truncated
  deriving DecidableEq, Repr

/-- Class 0 compares all twelve low bits (R65). -/
def decodeClass0 (w : Word) : Except DecodeFailure Instr :=
  if nnnField w = 0x0E0#12 then .ok .cls
  else if nnnField w = 0x0EE#12 then .ok .ret
  else .error (.class0 w)

/-- Class 8 dispatches on `n` (R65). -/
def decodeClass8 (w : Word) : Except DecodeFailure Instr :=
  if nField w = 0x0#4 then .ok (.ldVxVy (xField w) (yField w))
  else if nField w = 0x1#4 then .ok (.orVxVy (xField w) (yField w))
  else if nField w = 0x2#4 then .ok (.andVxVy (xField w) (yField w))
  else if nField w = 0x3#4 then .ok (.xorVxVy (xField w) (yField w))
  else if nField w = 0x4#4 then .ok (.addVxVy (xField w) (yField w))
  else if nField w = 0x5#4 then .ok (.subVxVy (xField w) (yField w))
  else if nField w = 0x6#4 then .ok (.shrVx (xField w) (yField w))
  else if nField w = 0x7#4 then .ok (.subnVxVy (xField w) (yField w))
  else if nField w = 0xE#4 then .ok (.shlVx (xField w) (yField w))
  else .error (.class8 w)

/-- Class E dispatches on `kk` (R65). -/
def decodeClassE (w : Word) : Except DecodeFailure Instr :=
  if kkField w = 0x9E#8 then .ok (.skpVx (xField w))
  else if kkField w = 0xA1#8 then .ok (.sknpVx (xField w))
  else .error (.classE w)

/-- Class F dispatches on `kk` (R65). -/
def decodeClassF (w : Word) : Except DecodeFailure Instr :=
  if kkField w = 0x07#8 then .ok (.ldVxDT (xField w))
  else if kkField w = 0x0A#8 then .ok (.ldVxK (xField w))
  else if kkField w = 0x15#8 then .ok (.ldDTVx (xField w))
  else if kkField w = 0x18#8 then .ok (.ldSTVx (xField w))
  else if kkField w = 0x1E#8 then .ok (.addIVx (xField w))
  else if kkField w = 0x29#8 then .ok (.ldFVx (xField w))
  else if kkField w = 0x33#8 then .ok (.ldBVx (xField w))
  else if kkField w = 0x55#8 then .ok (.ldMemVx (xField w))
  else if kkField w = 0x65#8 then .ok (.ldVxMem (xField w))
  else .error (.classF w)

/-- Decoding reads nothing but the word (R69). Primary dispatch on `op` (R64); all 16 classes are defined. -/
def decodeWord (w : Word) : Except DecodeFailure Instr :=
  if opField w = 0x0#4 then decodeClass0 w
  else if opField w = 0x1#4 then .ok (.jpAddr (nnnField w))
  else if opField w = 0x2#4 then .ok (.callAddr (nnnField w))
  else if opField w = 0x3#4 then .ok (.seVxByte (xField w) (kkField w))
  else if opField w = 0x4#4 then .ok (.sneVxByte (xField w) (kkField w))
  else if opField w = 0x5#4 then .ok (.seVxVy (xField w) (yField w))
  else if opField w = 0x6#4 then .ok (.ldVxByte (xField w) (kkField w))
  else if opField w = 0x7#4 then .ok (.addVxByte (xField w) (kkField w))
  else if opField w = 0x8#4 then decodeClass8 w
  else if opField w = 0x9#4 then .ok (.sneVxVy (xField w) (yField w))
  else if opField w = 0xA#4 then .ok (.ldIAddr (nnnField w))
  else if opField w = 0xB#4 then .ok (.jpVxAddr (xField w) (nnnField w))
  else if opField w = 0xC#4 then .ok (.rndVxByte (xField w) (kkField w))
  else if opField w = 0xD#4 then .ok (.drwVxVyNibble (xField w) (yField w) (nField w))
  else if opField w = 0xE#4 then decodeClassE w
  else decodeClassF w

/-- The instruction word of two bytes, high byte first (spec/20_memory.md R42). -/
def wordOfBytes (hi lo : Byte) : Word := hi ++ lo

/-- The byte at PC of a word (R42): `w[15:8]`. -/
def highByte (w : Word) : Byte := w.extractLsb' 8 8

/-- The byte at PC + 1 of a word (R42): `w[7:0]`. -/
def lowByte (w : Word) : Byte := w.extractLsb' 0 8

/-- Decoding the bytes that start at an address: the instruction and the bytes after it (R60, R42). -/
def decodeBytes : List Byte → Except DecodeFailure (Instr × List Byte)
  | hi :: lo :: rest =>
    match decodeWord (wordOfBytes hi lo) with
    | .ok i => .ok (i, rest)
    | .error e => .error e
  | _ => .error .truncated

/-! ## Encoding -/

/-- Formats A: a class and an address (R62). -/
def formatA (op : Nibble) (nnn : Addr12) : Word := op ++ nnn
/-- Formats XK and XS: a class, a register and a byte (R62). -/
def formatXK (op : Nibble) (x : RegId) (kk : Byte) : Word := (op ++ x) ++ kk
/-- Formats XY and XYN: a class, two registers and a nibble (R62). -/
def formatXYN (op : Nibble) (x y : RegId) (n : Nibble) : Word := (op ++ x) ++ (y ++ n)

/-- The word of an instruction (R66). The ignored nibble of `5xy-` and `9xy-` is 0, the canonical encoding of R67; JP
Vx, addr is encoded from its `nnn`, which holds `x` (R67). -/
def encode : Instr → Word
  | .cls => 0x00E0#16
  | .ret => 0x00EE#16
  | .jpAddr nnn => formatA 0x1#4 nnn
  | .callAddr nnn => formatA 0x2#4 nnn
  | .seVxByte x kk => formatXK 0x3#4 x kk
  | .sneVxByte x kk => formatXK 0x4#4 x kk
  | .seVxVy x y => formatXYN 0x5#4 x y 0x0#4
  | .ldVxByte x kk => formatXK 0x6#4 x kk
  | .addVxByte x kk => formatXK 0x7#4 x kk
  | .ldVxVy x y => formatXYN 0x8#4 x y 0x0#4
  | .orVxVy x y => formatXYN 0x8#4 x y 0x1#4
  | .andVxVy x y => formatXYN 0x8#4 x y 0x2#4
  | .xorVxVy x y => formatXYN 0x8#4 x y 0x3#4
  | .addVxVy x y => formatXYN 0x8#4 x y 0x4#4
  | .subVxVy x y => formatXYN 0x8#4 x y 0x5#4
  | .shrVx x y => formatXYN 0x8#4 x y 0x6#4
  | .subnVxVy x y => formatXYN 0x8#4 x y 0x7#4
  | .shlVx x y => formatXYN 0x8#4 x y 0xE#4
  | .sneVxVy x y => formatXYN 0x9#4 x y 0x0#4
  | .ldIAddr nnn => formatA 0xA#4 nnn
  | .jpVxAddr _ nnn => formatA 0xB#4 nnn
  | .rndVxByte x kk => formatXK 0xC#4 x kk
  | .drwVxVyNibble x y n => formatXYN 0xD#4 x y n
  | .skpVx x => formatXK 0xE#4 x 0x9E#8
  | .sknpVx x => formatXK 0xE#4 x 0xA1#8
  | .ldVxDT x => formatXK 0xF#4 x 0x07#8
  | .ldVxK x => formatXK 0xF#4 x 0x0A#8
  | .ldDTVx x => formatXK 0xF#4 x 0x15#8
  | .ldSTVx x => formatXK 0xF#4 x 0x18#8
  | .addIVx x => formatXK 0xF#4 x 0x1E#8
  | .ldFVx x => formatXK 0xF#4 x 0x29#8
  | .ldBVx x => formatXK 0xF#4 x 0x33#8
  | .ldMemVx x => formatXK 0xF#4 x 0x55#8
  | .ldVxMem x => formatXK 0xF#4 x 0x65#8

/-- The two bytes of an instruction as memory holds them, high byte first (R60, R42). -/
def encodeBytes (i : Instr) : List Byte := [highByte (encode i), lowByte (encode i)]

/-! ## The table's own match and mask (R66), transcribed column by column -/

/-- The column "mask" of R66. -/
def Instr.mask : Instr → Word
  | .cls | .ret => 0xFFFF#16
  | .ldVxVy _ _ | .orVxVy _ _ | .andVxVy _ _ | .xorVxVy _ _ | .addVxVy _ _ | .subVxVy _ _ | .shrVx _ _
  | .subnVxVy _ _ | .shlVx _ _ => 0xF00F#16
  | .skpVx _ | .sknpVx _ | .ldVxDT _ | .ldVxK _ | .ldDTVx _ | .ldSTVx _ | .addIVx _ | .ldFVx _ | .ldBVx _
  | .ldMemVx _ | .ldVxMem _ => 0xF0FF#16
  | .jpAddr _ | .callAddr _ | .seVxByte _ _ | .sneVxByte _ _ | .seVxVy _ _ | .ldVxByte _ _ | .addVxByte _ _
  | .sneVxVy _ _ | .ldIAddr _ | .jpVxAddr _ _ | .rndVxByte _ _ | .drwVxVyNibble _ _ _ => 0xF000#16

/-- The column "match" of R66. -/
def Instr.matchBits : Instr → Word
  | .cls => 0x00E0#16
  | .ret => 0x00EE#16
  | .jpAddr _ => 0x1000#16
  | .callAddr _ => 0x2000#16
  | .seVxByte _ _ => 0x3000#16
  | .sneVxByte _ _ => 0x4000#16
  | .seVxVy _ _ => 0x5000#16
  | .ldVxByte _ _ => 0x6000#16
  | .addVxByte _ _ => 0x7000#16
  | .ldVxVy _ _ => 0x8000#16
  | .orVxVy _ _ => 0x8001#16
  | .andVxVy _ _ => 0x8002#16
  | .xorVxVy _ _ => 0x8003#16
  | .addVxVy _ _ => 0x8004#16
  | .subVxVy _ _ => 0x8005#16
  | .shrVx _ _ => 0x8006#16
  | .subnVxVy _ _ => 0x8007#16
  | .shlVx _ _ => 0x800E#16
  | .sneVxVy _ _ => 0x9000#16
  | .ldIAddr _ => 0xA000#16
  | .jpVxAddr _ _ => 0xB000#16
  | .rndVxByte _ _ => 0xC000#16
  | .drwVxVyNibble _ _ _ => 0xD000#16
  | .skpVx _ => 0xE09E#16
  | .sknpVx _ => 0xE0A1#16
  | .ldVxDT _ => 0xF007#16
  | .ldVxK _ => 0xF00A#16
  | .ldDTVx _ => 0xF015#16
  | .ldSTVx _ => 0xF018#16
  | .addIVx _ => 0xF01E#16
  | .ldFVx _ => 0xF029#16
  | .ldBVx _ => 0xF033#16
  | .ldMemVx _ => 0xF055#16
  | .ldVxMem _ => 0xF065#16

/-! ## The host's two questions -/

/-- The word the opcode table's numbering `w` of `nbits` bits stands for: every instruction is one 16-bit word, and a
bit above `nbits` is 0. -/
def tableWord (nbits w : Nat) : Word := BitVec.ofNat 16 (w % 2 ^ nbits)

/-- The instruction the decoder reads from the bytes of a table word, laid out high byte first (R42, R60). -/
def decodeTableWord (nbits w : Nat) : Option Instr :=
  match decodeBytes [highByte (tableWord nbits w), lowByte (tableWord nbits w)] with
  | .ok (i, _) => some i
  | .error _ => none

end Sys2Proof
end

