-- ==== Sys2Proof/Config.lean ====
section
/-! DEFINITION. What an implementation fixes: the seven named parameters of spec/00_scope.md R6, as plain data that
State carries and no step changes (log 4); and the free values, opaque constants that nothing can evaluate (logs 2
and 5). The default values of the parameters stand in Machine/ResetValues.lean. -/

namespace Sys2Proof

/-- `SUB_FLAG` (R6): what VF = 1 means after SUB and SUBN (R108, R110). -/
inductive SubFlag where
  | noBorrow
  | borrow
  deriving DecidableEq, Repr

/-- `SHIFT_SRC` (R6): the register SHR and SHL shift (R109, R111). -/
inductive ShiftSrc where
  | vx
  | vy
  deriving DecidableEq, Repr

/-- `LOGIC_VF` (R6): what OR, AND and XOR do to VF (R104 to R106). -/
inductive LogicVF where
  | unchanged
  | zero
  deriving DecidableEq, Repr

/-- `DRAW_WRAP` (R6): how DRW places a pixel outside the display (R130). -/
inductive DrawWrap where
  | coord
  | linear
  deriving DecidableEq, Repr

/-- `MEMIDX_I` (R6): what the block store and load do to I (R125, R126). -/
inductive MemIdxI where
  | unchanged
  | advance
  deriving DecidableEq, Repr

/-- `RESET_V` (R6): the general registers and I after reset (R30). -/
inductive ResetV where
  | zero
  | unspecified
  deriving DecidableEq, Repr

/-- The parameters of R6, each over all its values. -/
structure Config where
  subFlag  : SubFlag
  shiftSrc : ShiftSrc
  logicVF  : LogicVF
  drawWrap : DrawWrap
  memIdxI  : MemIdxI
  font     : Vector Byte 80
  resetV   : ResetV
  deriving DecidableEq, Repr

/-- FREE VALUE: the key latch the host drives in a cycle for which State lists no move (R26, R82; log 2). -/
opaque Config.freeKey : Nat → BitVec 16

/-- FREE VALUE: the random byte of a cycle for which State lists no move (R27, U1; log 2). -/
opaque Config.freeRnd : Nat → Byte

/-- FREE VALUE: register `V[i]` after a reset at `RESET_V = unspecified` (R30, U7; log 5). -/
opaque Config.freeResetV : Nat → Nat → Byte

/-- FREE VALUE: I after a reset at `RESET_V = unspecified` (R30, U7; log 5). -/
opaque Config.freeResetI : Nat → Word

end Sys2Proof
end

