-- ==== Sys2Proof/Machine/Memory.lean ====
section
/-! DEFINITION. The 4096-byte memory (spec/20_memory.md R40, R41, R49; spec/10_state.md R22, R23) as a sorted list of
(address, byte) pairs that lists only the bytes that differ from what an unlisted address reads as, which is the reset
contents of R30 at the default FONT (log 6). -/

namespace Sys2Proof.Machine

/-- MEM_SIZE (R5). -/
abbrev memSize : Nat := 4096

/-- The sixteen glyphs of the default FONT, digits 0 to 7 (R23). -/
def fontLow : List Byte :=
  [0xF0, 0x90, 0x90, 0x90, 0xF0] ++ [0x20, 0x60, 0x20, 0x20, 0x70] ++
  [0xF0, 0x10, 0xF0, 0x80, 0xF0] ++ [0xF0, 0x10, 0xF0, 0x10, 0xF0] ++
  [0x90, 0x90, 0xF0, 0x10, 0x10] ++ [0xF0, 0x80, 0xF0, 0x10, 0xF0] ++
  [0xF0, 0x80, 0xF0, 0x90, 0xF0] ++ [0xF0, 0x10, 0x20, 0x40, 0x40]

/-- The glyphs of the default FONT, digits 8 to F (R23). -/
def fontHigh : List Byte :=
  [0xF0, 0x90, 0xF0, 0x90, 0xF0] ++ [0xF0, 0x90, 0xF0, 0x10, 0xF0] ++
  [0xF0, 0x90, 0xF0, 0x90, 0x90] ++ [0xE0, 0x90, 0xE0, 0x90, 0xE0] ++
  [0xF0, 0x80, 0x80, 0x80, 0xF0] ++ [0xE0, 0x90, 0x90, 0x90, 0xE0] ++
  [0xF0, 0x80, 0xF0, 0x80, 0xF0] ++ [0xF0, 0x80, 0xF0, 0x80, 0x80]

/-- The default FONT: glyph `d` is the five bytes from `5 * d` (R23). -/
def defaultFontBytes : List Byte := fontLow ++ fontHigh

/-- What an address that memory does not list reads as: the default FONT at 0 to 79, zero above (R30, R41; log 6). -/
def unlisted (a : Nat) : Byte := defaultFontBytes.getD a 0#8

/-- Memory as plain data. -/
abbrev Memory := List Host.Cell

/-- The byte at an address (R49: a read changes nothing). -/
def Memory.read : Memory → Nat → Byte
  | [], a => unlisted a
  | (k, v) :: m, a => if k = a then v else Memory.read m a

/-- The memory without an entry for an address. -/
def Memory.erase : Memory → Nat → Memory
  | [], _ => []
  | (k, v) :: m, a => if k = a then Memory.erase m a else (k, v) :: Memory.erase m a

/-- An entry put in its place by address. -/
def Memory.insert : Memory → Nat → Byte → Memory
  | [], a, v => [(a, v)]
  | (k, w) :: m, a, v => if a < k then (a, v) :: (k, w) :: m else (k, w) :: Memory.insert m a v

/-- `Mem[a] <- v` (R45, R49): the byte changes and nothing else. Writing what an unlisted address reads as removes the
entry, so that equal memories are equal lists. -/
def Memory.write (m : Memory) (a : Nat) (v : Byte) : Memory :=
  if v = unlisted a then Memory.erase m a else Memory.insert (Memory.erase m a) a v

/-- Bytes stored at ascending addresses from `a` (R43). -/
def Memory.storeBytes : Memory → Nat → List Byte → Memory
  | m, _, [] => m
  | m, a, b :: bs => Memory.storeBytes (Memory.write m a b) (a + 1) bs

/-- The canonical form from an address up: addresses strictly rising and below 4096, no entry equal to what an unlisted
address reads as. -/
def Memory.wfFrom : Nat → Memory → Bool
  | _, [] => true
  | lo, (k, v) :: m => decide (lo ≤ k) && decide (k < memSize) && decide (v ≠ unlisted k) && Memory.wfFrom (k + 1) m

/-- The canonical form of memory. -/
def Memory.wf (m : Memory) : Bool := Memory.wfFrom 0 m

end Sys2Proof.Machine
end

