-- ==== Sys2Proof/Machine/ResetValues.lean ====
section
/-! DEFINITION. The value of each piece of state after reset (spec/10_state.md R30, spec/70_reset_and_hazards.md R181,
R182) and the defaults of the parameters (spec/00_scope.md R6). -/

namespace Sys2Proof.Machine

/-- PROG_BASE, the entry point (R5, R182). -/
def progBase : Word := 0x200#16

/-- The default FONT as the parameter's value (R6, R23). -/
def defaultFont : Vector Byte 80 := ⟨defaultFontBytes.toArray, by decide⟩

/-- The parameters at their defaults (R6). -/
def defaultConfig : Config :=
  { subFlag := .noBorrow, shiftSrc := .vx, logicVF := .unchanged, drawWrap := .coord, memIdxI := .unchanged,
    font := defaultFont, resetV := .zero }

/-- Memory after reset: FONT at addresses 0 to 79, zero above (R30). At the default FONT nothing is listed. -/
def resetMemory (c : Config) : Memory := Memory.storeBytes [] 0 c.font.toList

/-- `V[0]` to `V[15]` after the `n`-th reset: 0 at `RESET_V = zero`, free values at `unspecified` (R30; log 5). -/
def resetRegs (c : Config) (n : Nat) : Vector Byte 16 :=
  match c.resetV with
  | .zero => Vector.replicate 16 0#8
  | .unspecified => Vector.ofFn (fun i => Config.freeResetV n i.val)

/-- I after the `n`-th reset: 0 at `RESET_V = zero`, a free value at `unspecified` (R30; log 5). -/
def resetIndex (c : Config) (n : Nat) : Word :=
  match c.resetV with
  | .zero => 0#16
  | .unspecified => Config.freeResetI n

end Sys2Proof.Machine
end

