-- ==== Sys2Proof/Machine/State.lean ====
section
/-! DEFINITION. The state of the core (spec/10_state.md R10 to R30) as plain data, the host's coming moves beside it
(R26, R185; log 1), the reasons a step can stop, and the state after reset. -/

namespace Sys2Proof.Machine

/-- The fatal faults of R151 with the value each records (R154). They are no stops of the model: the spec describes
their entry (R155), so each leads to a next state (log 9). -/
inductive FatalFault where
  /-- code 1, raised by the fetch when PC > 4094; records PC -/
  | fetchRange (pc : Word)
  /-- code 2, raised by DRW and LD Vx, [I]; records max(I, 4096) -/
  | memReadRange (addr : Word)
  /-- code 3, raised by LD B and LD [I], Vx; records max(I, 4096) -/
  | memWriteRange (addr : Word)
  /-- code 4, raised by CALL at SP = 15; records 0 -/
  | stackOverflow
  /-- code 5, raised by RET at SP = 0; records 0 -/
  | stackUnderflow
  /-- code 6, raised by SKP and SKNP when V[x] > 15; records V[x] -/
  | keyIndexRange (k : Byte)
  deriving DecidableEq, Repr

/-- The outputs of the cycle just performed (R28). -/
structure Outputs where
  /-- `sound_active` -/
  soundActive : Bool
  /-- `redraw` -/
  redraw : Bool
  /-- `report[2:0]` -/
  report : BitVec 3
  /-- `report_info[15:0]` -/
  reportInfo : Word
  deriving DecidableEq, Repr

/-- Every output 0 (R80, R81, R181). -/
abbrev Outputs.none : Outputs := { soundActive := false, redraw := false, report := 0#3, reportInfo := 0#16 }

/-- What the host does between two states of the core (R26, R185; log 1). -/
inductive HostMove where
  /-- `step` with the key latch and the random byte the host drives for the cycle (R26, R80, R82) -/
  | cycle (key : BitVec 16) (rnd : Byte)
  /-- `reset` (R180, R181) -/
  | reset
  /-- one use of the load port (R26, R184) -/
  | load (addr : Addr12) (data : Byte)
  deriving DecidableEq, Repr

/-- The display surface: 32 rows of 64 one-bit pixels, row `py` a word whose bit `px` is the pixel (R21; log 13). -/
abbrev Display := Vector (BitVec 64) 32

structure State where
  /-- memory (R22, R40) -/
  mem : Memory
  /-- V0 to VF (R10, R11) -/
  v : Vector Byte 16
  /-- the index register I (R14) -/
  i : Word
  /-- the program counter PC (R15) -/
  pc : Word
  /-- the stack pointer SP (R19) -/
  sp : BitVec 4
  /-- the call stack (R18) -/
  stack : Vector Word 16
  /-- the delay counter DT (R20) -/
  dt : Byte
  /-- the sound counter ST (R20) -/
  st : Byte
  /-- the display surface (R21) -/
  disp : Display
  /-- `halted` (R24) -/
  halted : Bool
  /-- `cause` (R24, R151) -/
  cause : BitVec 3
  /-- `tval` (R24, R154) -/
  tval : Word
  /-- the signal `key[15:0]` of the cycle (R26, R82; log 8) -/
  key : BitVec 16
  /-- the signal `rnd[7:0]` of the cycle (R26, R27, R82; log 8) -/
  rnd : Byte
  /-- the outputs of the last cycle (R28; log 7) -/
  out : Outputs
  /-- the parameters of R6, changed by no step (log 4) -/
  cfg : Config
  /-- MODEL'S OWN: the host's coming moves, oldest first (log 1) -/
  host : List HostMove
  /-- MODEL'S OWN: a cycle was requested since reset, so the load port is closed (R184, R185; log 3) -/
  started : Bool
  /-- MODEL'S OWN: the counter the free values are applied to (logs 2 and 5) -/
  drawn : Nat
  deriving DecidableEq, Repr

/-- No step stops with a fault: every fault of the spec has an entry that R155 describes, and the decode failure an
effect that R152 describes, so both are next states (logs 9 and 10). Nothing raises one; safe. -/
inductive Fault where
  deriving DecidableEq, Repr

/-- Why a step has no meaning. -/
inductive Refusal where
  /-- an arm of exec that has no meaning yet; raised by no arm of this model (safe) -/
  | notModelled (mnemonic : String)
  /-- raised by step when the host's next move is a load after the first cycle, a move R185 says a model is given none
  of ("the host writing memory after the first cycle"); safe (log 3) -/
  | loadAfterFirstCycle
  deriving DecidableEq, Repr

/-- The state after a reset at the parameters `c`, the free values of `RESET_V = unspecified` drawn at `n` (R30, R181,
R182). The host's moves are the caller's to keep. -/
def State.resetAt (c : Config) (n : Nat) : State :=
  { mem := resetMemory c, v := resetRegs c n, i := resetIndex c n, pc := progBase, sp := 0#4,
    stack := Vector.replicate 16 0#16, dt := 0#8, st := 0#8, disp := Vector.replicate 32 0#64,
    halted := false, cause := 0#3, tval := 0#16, key := 0#16, rnd := 0#8, out := Outputs.none, cfg := c,
    host := [], started := false, drawn := n + 1 }

/-- The machine right after reset, at the default parameters (R30, R6). -/
def State.reset : State := State.resetAt defaultConfig 0

end Sys2Proof.Machine
end

