-- ==== Sys2Proof/Machine/Flags.lean ====
section
/-! DEFINITION. Every flag computation of the spec (spec/10_state.md R13; spec/42_alu.md R107 to R111, R113). VF is the
only flag, and a flag write stores 0 or 1. The collision flag of DRW is computed with the drawing, in DisplayOps. -/

namespace Sys2Proof.Machine

/-- `[cond]` as the byte a flag write stores (R7, R13). -/
def flagByte (c : Bool) : Byte := if c then 1#8 else 0#8

/-- The carry out of `a + b`: the sum exceeds 255 (R107). -/
def carryOut (a b : Byte) : Bool := decide (255 < a.toNat + b.toNat)

/-- The flag of `a - b` at a value of SUB_FLAG (R108, R110). -/
def borrowFlag (p : SubFlag) (a b : Byte) : Bool :=
  match p with
  | .noBorrow => decide (b.toNat ≤ a.toNat)
  | .borrow => decide (a.toNat < b.toNat)

/-- The bit a right shift by one place loses (R109). -/
def shiftedOutRight (a : Byte) : Bool := a.getLsbD 0

/-- The bit a left shift by one place loses (R111). -/
def shiftedOutLeft (a : Byte) : Bool := a.getLsbD 7

end Sys2Proof.Machine
end

