-- ==== Sys2Proof/Machine/Ops.lean ====
section
/-! DEFINITION. The named operations over registers, memory, the stack, the timers and the outputs; the fault entry,
once for all (spec/60_exceptions.md R155), and beside it the reset, the only way out of the halted state (R158). -/

namespace Sys2Proof.Machine

/-! ## Registers -/

/-- `V[x]` (R8, R10). -/
def State.reg (s : State) (x : RegId) : Byte := s.v[x.toNat]'x.isLt

/-- `V[x] <- b` (R8, R10): no register is hardwired. -/
def State.setReg (s : State) (x : RegId) (b : Byte) : State := { s with v := s.v.set x.toNat b x.isLt }

/-- `VF <- [c]` (R11, R13). -/
def State.setFlag (s : State) (c : Bool) : State := s.setReg regVF (flagByte c)

/-- `stack[k]` (R18). -/
def State.slot (s : State) (k : BitVec 4) : Word := s.stack[k.toNat]'k.isLt

/-- `stack[k] <- w` (R18). -/
def State.setSlot (s : State) (k : BitVec 4) (w : Word) : State := { s with stack := s.stack.set k.toNat w k.isLt }

/-- `I <- w` (R14): all 16 bits are stored. -/
def State.setIndex (s : State) (w : Word) : State := { s with i := w }

/-- `pc <- target` (R15, R90): no target is checked when it is written. -/
def State.jump (s : State) (target : Word) : State := { s with pc := target }

/-- `pc <- (pc + 2) mod 65536` (R15, R16). -/
def State.advance (s : State) : State := { s with pc := s.pc + 2#16 }

/-- A skip: `pc + 4` when the condition holds, else `pc + 2` (R90). -/
def State.skipIf (s : State) (c : Bool) : State := { s with pc := s.pc + (if c then 4#16 else 2#16) }

/-! ## Memory -/

/-- The byte at an address (R44, for n = 1, once the range is checked). -/
def State.byteAt (s : State) (a : Nat) : Byte := s.mem.read a

/-- The `n` bytes at ascending addresses from `a` (R43). -/
def State.bytesAt (s : State) (a n : Nat) : List Byte := (List.range n).map (fun k => s.byteAt (a + k))

/-- Bytes written at ascending addresses from `a` (R43, R45, once the range is checked). -/
def State.storeBytes (s : State) (a : Nat) (bs : List Byte) : State := { s with mem := s.mem.storeBytes a bs }

/-- Who accesses memory, which names the fault (R44, R45, R151). -/
inductive Access where
  | fetch
  | read
  | write
  deriving DecidableEq, Repr

/-- The lowest address out of range of an access based at `base`: `max(base, 4096)` (R154, R120). -/
def lowestOutOfRange (base : Word) : Word := if base.toNat < memSize then 4096#16 else base

/-- The range check of an access of `n` bytes from `base`, over the integers (R44 to R46, R120): the fault it raises, or
none. An access of no byte is in range (R132). -/
def rangeFault (k : Access) (base : Word) (n : Nat) : Option FatalFault :=
  if n = 0 ∨ base.toNat + n - 1 ≤ 4095 then none
  else match k with
    | .fetch => some (.fetchRange base)
    | .read => some (.memReadRange (lowestOutOfRange base))
    | .write => some (.memWriteRange (lowestOutOfRange base))

/-! ## Faults (spec/60_exceptions.md) -/

/-- The cause code (R151). -/
def FatalFault.code : FatalFault → BitVec 3
  | .fetchRange _ => 1#3
  | .memReadRange _ => 2#3
  | .memWriteRange _ => 3#3
  | .stackOverflow => 4#3
  | .stackUnderflow => 5#3
  | .keyIndexRange _ => 6#3

/-- The value recorded (R151, R154). -/
def FatalFault.value : FatalFault → Word
  | .fetchRange pc => pc
  | .memReadRange a => a
  | .memWriteRange a => a
  | .stackOverflow => 0#16
  | .stackUnderflow => 0#16
  | .keyIndexRange k => zext8 k

/-- Fault entry (R155): `halted`, `cause`, `tval`, the report; every other piece of state as it was, since a fault is
raised before the first write (R156). -/
def State.enterFault (s : State) (f : FatalFault) : State :=
  { s with halted := true, cause := f.code, tval := f.value,
           out := { soundActive := false, redraw := false, report := f.code, reportInfo := f.value } }

/-- `raise f` (R8): the entry is a next state of the machine (log 9). -/
def raise (f : FatalFault) (s : State) : Host.Outcome State Fault Refusal := .next (s.enterFault f)

/-- The way back from a fault, and the reset at any other time (R158, R180, R181): every piece of state at its reset
value; the parameters stay, and the host's later moves (log 1). -/
def State.hostReset (s : State) : State := { State.resetAt s.cfg s.drawn with host := s.host.tail }

/-- The decode failure (R152): reported in the outputs, not latched. -/
def State.reportDecodeFailure (s : State) (w : Word) : State :=
  { s with out := { s.out with report := 7#3, reportInfo := w } }

/-! ## The cycle (spec/40_cycle.md) -/

/-- The start of a cycle: the outputs are 0 and the input signals are those of the move (R80, R82). -/
def State.beginCycle (s : State) (key : BitVec 16) (rnd : Byte) : State :=
  { s with key := key, rnd := rnd, out := Outputs.none, host := s.host.tail, started := true, drawn := s.drawn + 1 }

/-- Fetch (R83, R42): the word at PC, high byte first, or the range fault. -/
def State.fetch (s : State) : Except FatalFault Word :=
  match rangeFault .fetch s.pc 2 with
  | some f => .error f
  | none => .ok (wordOfBytes (s.byteAt s.pc.toNat) (s.byteAt (s.pc.toNat + 1)))

/-- A counter's decrement, floor at zero (R20, R86). -/
def countDown (b : Byte) : Byte := if b = 0#8 then 0#8 else b - 1#8

/-- The tick (R86): `sound_active` is taken from ST before the decrement. -/
def State.tick (s : State) : State :=
  { s with dt := countDown s.dt, st := countDown s.st, out := { s.out with soundActive := decide (s.st ≠ 0#8) } }

/-- The end of a cycle: the tick, skipped when the cycle raised a fatal fault (R80, R155). -/
def State.endCycle (s : State) : State := if s.halted then s else s.tick

/-- The host's next move: the oldest listed, or a cycle under free inputs when none is listed (logs 1 and 2). -/
def State.nextMove (s : State) : HostMove :=
  match s.host with
  | m :: _ => m
  | [] => .cycle (Config.freeKey s.drawn) (Config.freeRnd s.drawn)

/-- A move that is a cycle, not a reset or a load. -/
def HostMove.isCycle : HostMove → Bool
  | .cycle _ _ => true
  | .reset => false
  | .load _ _ => false

/-- One use of the load port: one byte at a 12-bit address (R26, R184; log 11). -/
def State.hostLoad (s : State) (addr : Addr12) (data : Byte) : State :=
  { s with mem := s.mem.write addr.toNat data, host := s.host.tail }

/-- The largest program image, in bytes (R41). -/
def maxImage : Nat := 3584

/-- The load moves of an image, byte `k` at `base + k` (R184). -/
def loadMoves : Nat → List Byte → List HostMove
  | _, [] => []
  | a, b :: bs => .load (BitVec.ofNat 12 a) b :: loadMoves (a + 1) bs

/-- The boot sequence (R183, R184): reset, then the image byte by byte from 0x200; the loader refuses a longer image. -/
def bootMoves (image : List Byte) : Option (List HostMove) :=
  if image.length ≤ maxImage then some (.reset :: loadMoves progBase.toNat image) else none

end Sys2Proof.Machine
end

