-- ==== Sys2Proof/Machine/Operands.lean ====
section
/-! DEFINITION. The operand forms: register pairs with a flag, the source of a shift, the effective address of a
memory access, the key a register names, the least key that is down. -/

namespace Sys2Proof.Machine

/-- Result, then flag, then PC + 2 (R100): at x = 15 the flag is what VF holds afterwards. -/
def State.writeResultFlag (s : State) (x : RegId) (r : Byte) (c : Bool) : State :=
  ((s.setReg x r).setFlag c).advance

/-- Result, then PC + 2, no flag (R101 to R103, R112). -/
def State.writeResult (s : State) (x : RegId) (r : Byte) : State := (s.setReg x r).advance

/-- Result, then VF by LOGIC_VF, then PC + 2 (R104 to R106). -/
def State.writeLogic (s : State) (x : RegId) (r : Byte) : State :=
  match s.cfg.logicVF with
  | .unchanged => s.writeResult x r
  | .zero => s.writeResultFlag x r false

/-- The operand of SHR and SHL by SHIFT_SRC (R109, R111). -/
def State.shiftSource (s : State) (x y : RegId) : Byte :=
  match s.cfg.shiftSrc with
  | .vx => s.reg x
  | .vy => s.reg y

/-- The effective address of byte `k` of an access based at I, over the integers (R46). -/
def State.effAddr (s : State) (k : Nat) : Nat := s.i.toNat + k

/-- How many bytes a block transfer with field `x` moves (R48, R125, R126). -/
def blockCount (x : RegId) : Nat := x.toNat + 1

/-- `V[0]` to `V[x]`, in order (R125). -/
def State.regsUpTo (s : State) (x : RegId) : List Byte := s.v.toList.take (blockCount x)

/-- `V[0]` onward loaded with bytes, in order (R126). -/
def loadRegs : Vector Byte 16 → Nat → List Byte → Vector Byte 16
  | v, _, [] => v
  | v, k, b :: bs => loadRegs (v.setIfInBounds k b) (k + 1) bs

/-- I after a block transfer, by MEMIDX_I (R125, R126). -/
def State.blockIndex (s : State) (x : RegId) : Word :=
  match s.cfg.memIdxI with
  | .unchanged => s.i
  | .advance => s.i + BitVec.ofNat 16 (blockCount x)

/-- The decimal digits of a byte: hundreds, tens, units (R124). -/
def decimalDigits (b : Byte) : List Byte :=
  [BitVec.ofNat 8 (b.toNat / 100), BitVec.ofNat 8 (b.toNat / 10 % 10), BitVec.ofNat 8 (b.toNat % 10)]

/-- The address of the glyph of a register value, `V[x] * 5`, not reduced to a digit (R123). -/
def glyphAddr (b : Byte) : Word := BitVec.ofNat 16 (b.toNat * 5)

/-- `key[k]` of the sampled latch (R8, R82). -/
def State.keyDown (s : State) (k : Nat) : Bool := s.key.getLsbD k

/-- The least key that is down (R144). -/
def lowestKey (key : BitVec 16) : Option Nat := (List.range 16).find? (fun k => key.getLsbD k)

end Sys2Proof.Machine
end

