-- ==== Sys2Proof/Machine/Alu.lean ====
section
/-! DEFINITION. Register load, arithmetic, logic, shift and random instructions (spec/42_alu.md R100 to R112). Byte
arithmetic wraps modulo 256 (R113). -/

namespace Sys2Proof.Machine

/-- LD Vx, byte (R101). -/
def execLdVxByte (x : RegId) (kk : Byte) (s : State) : Host.Outcome State Fault Refusal := .next (s.writeResult x kk)

/-- ADD Vx, byte (R102): no flag. -/
def execAddVxByte (x : RegId) (kk : Byte) (s : State) : Host.Outcome State Fault Refusal :=
  .next (s.writeResult x (s.reg x + kk))

/-- LD Vx, Vy (R103): no flag at any LOGIC_VF. -/
def execLdVxVy (x y : RegId) (s : State) : Host.Outcome State Fault Refusal := .next (s.writeResult x (s.reg y))

/-- OR Vx, Vy (R104). -/
def execOrVxVy (x y : RegId) (s : State) : Host.Outcome State Fault Refusal :=
  .next (s.writeLogic x (s.reg x ||| s.reg y))

/-- AND Vx, Vy (R105). -/
def execAndVxVy (x y : RegId) (s : State) : Host.Outcome State Fault Refusal :=
  .next (s.writeLogic x (s.reg x &&& s.reg y))

/-- XOR Vx, Vy (R106). -/
def execXorVxVy (x y : RegId) (s : State) : Host.Outcome State Fault Refusal :=
  .next (s.writeLogic x (s.reg x ^^^ s.reg y))

/-- ADD Vx, Vy (R107): the carry is an output only. -/
def execAddVxVy (x y : RegId) (s : State) : Host.Outcome State Fault Refusal :=
  .next (s.writeResultFlag x (s.reg x + s.reg y) (carryOut (s.reg x) (s.reg y)))

/-- SUB Vx, Vy (R108). -/
def execSubVxVy (x y : RegId) (s : State) : Host.Outcome State Fault Refusal :=
  .next (s.writeResultFlag x (s.reg x - s.reg y) (borrowFlag s.cfg.subFlag (s.reg x) (s.reg y)))

/-- SHR Vx {, Vy} (R109). -/
def execShrVx (x y : RegId) (s : State) : Host.Outcome State Fault Refusal :=
  .next (s.writeResultFlag x (s.shiftSource x y >>> 1) (shiftedOutRight (s.shiftSource x y)))

/-- SUBN Vx, Vy (R110). -/
def execSubnVxVy (x y : RegId) (s : State) : Host.Outcome State Fault Refusal :=
  .next (s.writeResultFlag x (s.reg y - s.reg x) (borrowFlag s.cfg.subFlag (s.reg y) (s.reg x)))

/-- SHL Vx {, Vy} (R111). -/
def execShlVx (x y : RegId) (s : State) : Host.Outcome State Fault Refusal :=
  .next (s.writeResultFlag x (s.shiftSource x y <<< 1) (shiftedOutLeft (s.shiftSource x y)))

/-- RND Vx, byte (R112): `rnd` is the free input of the cycle (R27). -/
def execRndVxByte (x : RegId) (kk : Byte) (s : State) : Host.Outcome State Fault Refusal :=
  .next (s.writeResult x (s.rnd &&& kk))

end Sys2Proof.Machine
end

