-- ==== Sys2Proof/Machine/DisplayOps.lean ====
section
/-! DEFINITION. The display surface and the sprite drawing algorithm (spec/44_display.md R130, R132; spec/10_state.md
R21). -/

namespace Sys2Proof.Machine

/-- A pixel's place: column 0 to 63 and row 0 to 31 (R21). -/
structure Pos where
  px : Fin 64
  py : Fin 32
  deriving DecidableEq, Repr

/-- `place(X, Y)` (R130), by DRAW_WRAP: every sprite bit lands on some pixel. -/
def place (w : DrawWrap) (x y : Nat) : Pos :=
  match w with
  | .coord => { px := Fin.ofNat 64 x, py := Fin.ofNat 32 y }
  | .linear => { px := Fin.ofNat 64 ((x + 64 * y) % 2048), py := Fin.ofNat 32 ((x + 64 * y) % 2048 / 64) }

/-- `disp[py][px]` (R21). -/
def Display.pixel (d : Display) (p : Pos) : Bool := d[p.py.val].getLsbD p.px.val

/-- `disp[py][px] <- disp[py][px] ^ 1` (R132). -/
def Display.toggle (d : Display) (p : Pos) : Display :=
  d.set p.py.val (d[p.py.val] ^^^ BitVec.twoPow 64 p.px.val)

/-- The blank surface (R131). -/
def Display.blank : Display := Vector.replicate 32 0#64

/-- Where the set bits of one sprite row land: column `c` is bit `7 - c` of the row's byte (R132). -/
def rowPoints (w : DrawWrap) (ox oy r : Nat) (b : Byte) : List Pos :=
  ((List.range 8).filter (fun c => b.getLsbD (7 - c))).map (fun c => place w (ox + c) (oy + r))

/-- Where the set bits of a sprite land, row by row from row `r` (R132). -/
def spritePoints (w : DrawWrap) (ox oy : Nat) : Nat → List Byte → List Pos
  | _, [] => []
  | r, b :: bs => rowPoints w ox oy r b ++ spritePoints w ox oy (r + 1) bs

/-- One set sprite bit: a collision when the pixel is set, and the pixel toggled (R132). -/
def plot (acc : Display × Bool) (p : Pos) : Display × Bool := (acc.1.toggle p, acc.2 || acc.1.pixel p)

/-- The drawing loop: the new surface and the collision (R132). -/
def drawPoints (d : Display) (ps : List Pos) : Display × Bool := ps.foldl plot (d, false)

/-- Where the sprite of a DRW lands: origin from `V[x]` and `V[y]`, row `r` the byte at I + r (R132). -/
def State.drawTargets (s : State) (x y : RegId) (n : Nibble) : List Pos :=
  spritePoints s.cfg.drawWrap (s.reg x).toNat (s.reg y).toNat 0 (s.bytesAt (s.effAddr 0) n.toNat)

end Sys2Proof.Machine
end

