-- ==== Sys2Proof/Machine/DisplayInstr.lean ====
section
/-! DEFINITION. The display instructions (spec/44_display.md R130 to R132). -/

namespace Sys2Proof.Machine

/-- CLS (R131): VF is not written and `redraw` stays 0. -/
def execCls (s : State) : Host.Outcome State Fault Refusal := .next { s with disp := Display.blank }.advance

/-- DRW Vx, Vy, nibble (R132): the origin is read before VF is written; VF is written once, after the loop. -/
def execDrwVxVyNibble (x y : RegId) (n : Nibble) (s : State) : Host.Outcome State Fault Refusal :=
  match rangeFault .read s.i n.toNat with
  | some f => raise f s
  | none =>
    .next ({ s with disp := (drawPoints s.disp (s.drawTargets x y n)).1,
                    out := { s.out with redraw := true } }.setFlag
            (drawPoints s.disp (s.drawTargets x y n)).2).advance

end Sys2Proof.Machine
end

