-- ==== Sys2Proof/Machine/Flow.lean ====
section
/-! DEFINITION. The control transfer instructions (spec/41_flow.md R90 to R98). -/

namespace Sys2Proof.Machine

/-- RET (R91). -/
def execRet (s : State) : Host.Outcome State Fault Refusal :=
  if s.sp = 0#4 then raise .stackUnderflow s
  else .next { s.jump (s.slot s.sp + 2#16) with sp := s.sp - 1#4 }

/-- JP addr (R92). -/
def execJpAddr (nnn : Addr12) (s : State) : Host.Outcome State Fault Refusal := .next (s.jump (zext12 nnn))

/-- CALL addr (R93): the value pushed is the address of the CALL itself. -/
def execCallAddr (nnn : Addr12) (s : State) : Host.Outcome State Fault Refusal :=
  if s.sp = 15#4 then raise .stackOverflow s
  else .next (({ s with sp := s.sp + 1#4 }.setSlot (s.sp + 1#4) s.pc).jump (zext12 nnn))

/-- SE Vx, byte (R94). -/
def execSeVxByte (x : RegId) (kk : Byte) (s : State) : Host.Outcome State Fault Refusal :=
  .next (s.skipIf (decide (s.reg x = kk)))

/-- SNE Vx, byte (R95). -/
def execSneVxByte (x : RegId) (kk : Byte) (s : State) : Host.Outcome State Fault Refusal :=
  .next (s.skipIf (decide (s.reg x ≠ kk)))

/-- SE Vx, Vy (R96). -/
def execSeVxVy (x y : RegId) (s : State) : Host.Outcome State Fault Refusal :=
  .next (s.skipIf (decide (s.reg x = s.reg y)))

/-- SNE Vx, Vy (R97). -/
def execSneVxVy (x y : RegId) (s : State) : Host.Outcome State Fault Refusal :=
  .next (s.skipIf (decide (s.reg x ≠ s.reg y)))

/-- JP Vx, addr (R98): the offset register is `V[x]`, and the sum is not masked to 12 bits. -/
def execJpVxAddr (x : RegId) (nnn : Addr12) (s : State) : Host.Outcome State Fault Refusal :=
  .next (s.jump (zext12 nnn + zext8 (s.reg x)))

end Sys2Proof.Machine
end

