-- ==== Sys2Proof/Machine/IndexMemory.lean ====
section
/-! DEFINITION. The index register and memory instructions (spec/43_index_memory.md R120 to R126). -/

namespace Sys2Proof.Machine

/-- LD I, addr (R121). -/
def execLdIAddr (nnn : Addr12) (s : State) : Host.Outcome State Fault Refusal :=
  .next (s.setIndex (zext12 nnn)).advance

/-- ADD I, Vx (R122): modulo 65536, no flag. -/
def execAddIVx (x : RegId) (s : State) : Host.Outcome State Fault Refusal :=
  .next (s.setIndex (s.i + zext8 (s.reg x))).advance

/-- LD F, Vx (R123). -/
def execLdFVx (x : RegId) (s : State) : Host.Outcome State Fault Refusal :=
  .next (s.setIndex (glyphAddr (s.reg x))).advance

/-- LD B, Vx (R124). -/
def execLdBVx (x : RegId) (s : State) : Host.Outcome State Fault Refusal :=
  match rangeFault .write s.i 3 with
  | some f => raise f s
  | none => .next (s.storeBytes (s.effAddr 0) (decimalDigits (s.reg x))).advance

/-- LD [I], Vx (R125). -/
def execLdMemVx (x : RegId) (s : State) : Host.Outcome State Fault Refusal :=
  match rangeFault .write s.i (blockCount x) with
  | some f => raise f s
  | none => .next ((s.storeBytes (s.effAddr 0) (s.regsUpTo x)).setIndex (s.blockIndex x)).advance

/-- LD Vx, [I] (R126). -/
def execLdVxMem (x : RegId) (s : State) : Host.Outcome State Fault Refusal :=
  match rangeFault .read s.i (blockCount x) with
  | some f => raise f s
  | none =>
    .next ({ s with v := loadRegs s.v 0 (s.bytesAt (s.effAddr 0) (blockCount x)) }.setIndex (s.blockIndex x)).advance

end Sys2Proof.Machine
end

