-- ==== Sys2Proof/Machine/KeypadTimers.lean ====
section
/-! DEFINITION. The keypad and timer instructions (spec/45_keypad_timers.md R140 to R147). The tick of the same cycle
follows in step (R86). -/

namespace Sys2Proof.Machine

/-- SKP Vx (R141): the key tested is the one whose number is the value of `V[x]`. -/
def execSkpVx (x : RegId) (s : State) : Host.Outcome State Fault Refusal :=
  if 15 < (s.reg x).toNat then raise (.keyIndexRange (s.reg x)) s
  else .next (s.skipIf (s.keyDown (s.reg x).toNat))

/-- SKNP Vx (R142). -/
def execSknpVx (x : RegId) (s : State) : Host.Outcome State Fault Refusal :=
  if 15 < (s.reg x).toNat then raise (.keyIndexRange (s.reg x)) s
  else .next (s.skipIf (!s.keyDown (s.reg x).toNat))

/-- LD Vx, DT (R143). -/
def execLdVxDT (x : RegId) (s : State) : Host.Outcome State Fault Refusal := .next (s.writeResult x s.dt)

/-- LD Vx, K (R144): while no key is down nothing changes, PC included; else the least key that is down. -/
def execLdVxK (x : RegId) (s : State) : Host.Outcome State Fault Refusal :=
  .next (match lowestKey s.key with
    | none => s
    | some k => s.writeResult x (BitVec.ofNat 8 k))

/-- LD DT, Vx (R146). -/
def execLdDTVx (x : RegId) (s : State) : Host.Outcome State Fault Refusal := .next { s with dt := s.reg x }.advance

/-- LD ST, Vx (R147). -/
def execLdSTVx (x : RegId) (s : State) : Host.Outcome State Fault Refusal := .next { s with st := s.reg x }.advance

end Sys2Proof.Machine
end

