-- ==== Sys2Proof/Machine/Cycle.lean ====
section
/-! DEFINITION. The cycle of spec/40_cycle.md R80, over the execute step. -/

namespace Sys2Proof.Machine

/-- The cycle, on a state whose inputs are sampled and whose outputs are 0 (R80 to R88). -/
def cycleBody (s : State) : Host.Outcome State Fault Refusal :=
  if s.halted then .next s
  else match s.fetch with
    | .error f => raise f s
    | .ok w => match decodeWord w with
      | .error _ => .next (s.reportDecodeFailure w).endCycle
      | .ok i => match exec i s with
        | .next t => .next t.endCycle
        | .fault r => .fault r
        | .refused r => .refused r

/-- The address step fetches its next instruction from: PC, or the entry point where PC names no two bytes of memory. -/
def State.fetchBase (s : State) : Word := if s.pc.toNat ≤ 4094 then s.pc else progBase

end Sys2Proof.Machine
end

