-- ==== Sys2Proof/Machine/Step.lean ====
section
/-! DEFINITION. One step: one move of the host (spec/70_reset_and_hazards.md R185; log 1). -/

namespace Sys2Proof.Machine

/-- One move of the host (R185): a cycle (R80), a reset (R181), or one use of the load port, which is open before the
first cycle only (R184; log 3). -/
def step (s : State) : Host.Outcome State Fault Refusal :=
  match s.nextMove with
  | .cycle key rnd => cycleBody (s.beginCycle key rnd)
  | .reset => .next s.hostReset
  | .load addr data => if s.started then .refused .loadAfterFirstCycle else .next (s.hostLoad addr data)

/-- The word of the host's numbering stored where the next step fetches, the core running, and no host move other than
a cycle before it (log 12). -/
def State.withFetchWord (s : State) (nbits w : Nat) : State :=
  { s with pc := s.fetchBase, halted := false, cause := 0#3, tval := 0#16,
           host := s.host.dropWhile (fun m => !m.isCycle),
           mem := s.mem.storeBytes s.fetchBase.toNat [highByte (tableWord nbits w), lowByte (tableWord nbits w)] }

end Sys2Proof.Machine
end

