-- ==== Sys2Proof/Safety.lean ====
section
/-! DEFINITION. What claims about the machine are stated in: the frames (what is kept), the invariant, a failed and a
finished run (spec/60_exceptions.md R159, spec/40_cycle.md R89). -/

namespace Sys2Proof.Machine

/-! ## What is kept from one state to another -/

/-- Every byte of memory reads as before. -/
def KeepsMemory (s t : State) : Prop := ∀ a, t.byteAt a = s.byteAt a

/-- Every byte of memory outside the `n` bytes from `a` reads as before. -/
def KeepsMemoryBut (a n : Nat) (s t : State) : Prop := ∀ b, b < a ∨ a + n ≤ b → t.byteAt b = s.byteAt b

/-- Every general register not listed reads as before. -/
def KeepsRegsBut (ds : List RegId) (s t : State) : Prop := ∀ r, r ∉ ds → t.reg r = s.reg r

/-- The call stack and SP are as before. -/
def KeepsStack (s t : State) : Prop := t.sp = s.sp ∧ ∀ k, t.slot k = s.slot k

/-- Both counters are as before. -/
def KeepsTimers (s t : State) : Prop := t.dt = s.dt ∧ t.st = s.st

/-- Every pixel is as before. -/
def KeepsDisplay (s t : State) : Prop := ∀ p, t.disp.pixel p = s.disp.pixel p

/-- The three fault-status registers are as before (R24). -/
def KeepsStatus (s t : State) : Prop := t.halted = s.halted ∧ t.cause = s.cause ∧ t.tval = s.tval

/-- What no instruction touches: the input signals, the parameters, the host's moves and the model's own fields. -/
def KeepsOutside (s t : State) : Prop :=
  t.key = s.key ∧ t.rnd = s.rnd ∧ t.cfg = s.cfg ∧ t.host = s.host ∧ t.started = s.started ∧ t.drawn = s.drawn

/-- The frame of an instruction that writes no more than the registers listed and PC. -/
def KeepsAllButRegs (ds : List RegId) (s t : State) : Prop :=
  KeepsMemory s t ∧ KeepsRegsBut ds s t ∧ t.i = s.i ∧ KeepsStack s t ∧ KeepsTimers s t ∧ KeepsDisplay s t ∧
  KeepsStatus s t ∧ t.out = s.out ∧ KeepsOutside s t

/-- The frame of an instruction that writes no more than I and PC. -/
def KeepsAllButIndex (s t : State) : Prop :=
  KeepsMemory s t ∧ KeepsRegsBut [] s t ∧ KeepsStack s t ∧ KeepsTimers s t ∧ KeepsDisplay s t ∧ KeepsStatus s t ∧
  t.out = s.out ∧ KeepsOutside s t

/-- Every piece of architectural state of R29 but the three status registers is as before. -/
def KeepsMachine (s t : State) : Prop :=
  KeepsMemory s t ∧ KeepsRegsBut [] s t ∧ t.i = s.i ∧ t.pc = s.pc ∧ KeepsStack s t ∧ KeepsTimers s t ∧
  KeepsDisplay s t

/-- The state a fatal fault with a code and a value leaves (R155): the three status registers and the report written,
everything else as before. -/
def FaultEntered (c : BitVec 3) (v : Word) (s t : State) : Prop :=
  t.halted = true ∧ t.cause = c ∧ t.tval = v ∧
  t.out = { soundActive := false, redraw := false, report := c, reportInfo := v } ∧
  KeepsMachine s t ∧ KeepsOutside s t

/-- An instruction answers a next state that holds a result in `V[x]`, at the numbers `r` and `f` of the result and the
flag, and PC + 2; where x = 15 the flag is what VF holds (R100); everything else as before. -/
def LeavesResultAndFlag (i : Instr) (x : RegId) (r f : Nat) (s : State) : Prop :=
  ∃ t, exec i s = .next t ∧ (x ≠ regVF → (t.reg x).toNat = r) ∧ (t.reg regVF).toNat = f ∧ t.pc = s.pc + 2#16 ∧
    KeepsAllButRegs [x, regVF] s t

/-- An instruction answers a next state that holds a result in `V[x]` and PC + 2; everything else as before. -/
def LeavesResult (i : Instr) (x : RegId) (r : Byte) (s : State) : Prop :=
  ∃ t, exec i s = .next t ∧ t.reg x = r ∧ t.pc = s.pc + 2#16 ∧ KeepsAllButRegs [x] s t

/-- An instruction answers a next state with PC at a target; everything else as before. -/
def LeavesPC (i : Instr) (target : Word) (s : State) : Prop :=
  ∃ t, exec i s = .next t ∧ t.pc = target ∧ KeepsAllButRegs [] s t

/-- An instruction raises a fault of a code and a value (R155). -/
def RaisesFault (i : Instr) (c : BitVec 3) (v : Nat) (s : State) : Prop :=
  ∃ t w, exec i s = .next t ∧ w.toNat = v ∧ FaultEntered c w s t

/-! ## The fault table of R151 -/

/-- When an instruction raises its fault, by the column "when" of R151. -/
def faultsWhen (i : Instr) (s : State) : Prop :=
  match i with
  | .ret => s.sp = 0#4
  | .callAddr _ => s.sp = 15#4
  | .drwVxVyNibble _ _ n => 0 < n.toNat ∧ 4095 < s.i.toNat + n.toNat - 1
  | .ldVxMem x => 4095 < s.i.toNat + x.toNat
  | .ldBVx _ => 4095 < s.i.toNat + 2
  | .ldMemVx x => 4095 < s.i.toNat + x.toNat
  | .skpVx x => 15 < (s.reg x).toNat
  | .sknpVx x => 15 < (s.reg x).toNat
  | _ => False

/-- The code of the fault an instruction can raise, by R151. -/
def faultCodeOf : Instr → BitVec 3
  | .drwVxVyNibble _ _ _ | .ldVxMem _ => 2#3
  | .ldBVx _ | .ldMemVx _ => 3#3
  | .callAddr _ => 4#3
  | .ret => 5#3
  | .skpVx _ | .sknpVx _ => 6#3
  | _ => 0#3

/-! ## The flag table of R13 -/

/-- The instructions that write VF as a flag at the parameters `c` (R12, R13). -/
def writesFlag (c : Config) : Instr → Bool
  | .addVxVy _ _ | .subVxVy _ _ | .shrVx _ _ | .subnVxVy _ _ | .shlVx _ _ | .drwVxVyNibble _ _ _ => true
  | .orVxVy _ _ | .andVxVy _ _ | .xorVxVy _ _ => c.logicVF == .zero
  | _ => false

/-- The instructions that name register 15 as a destination (R12). -/
def namesVF : Instr → Bool
  | .ldVxByte x _ | .addVxByte x _ | .ldVxVy x _ | .orVxVy x _ | .andVxVy x _ | .xorVxVy x _ | .addVxVy x _
  | .subVxVy x _ | .shrVx x _ | .subnVxVy x _ | .shlVx x _ | .rndVxByte x _ | .ldVxDT x | .ldVxK x | .ldVxMem x =>
    x == regVF
  | _ => false

/-! ## The invariant -/

/-- What every step keeps: memory in its canonical form; `cause` and `tval` 0 while the core runs and a cause of R151
while it is halted (R24); a stack slot holds an address a CALL was fetched from and slot 0 is never written (R19, R25);
PC at most 0x10FE (R16); the report agrees with the status registers (R28). -/
structure Inv (s : State) : Prop where
  memory : s.mem.wf = true
  running : s.halted = false → s.cause = 0#3 ∧ s.tval = 0#16
  stopped : s.halted = true → 1 ≤ s.cause.toNat ∧ s.cause.toNat ≤ 6
  slots : ∀ k, (s.slot k).toNat ≤ 4094
  slotZero : s.slot 0#4 = 0#16
  pcBound : s.pc.toNat ≤ 0x10FE
  noReport : s.out.report = 0#3 → s.out.reportInfo = 0#16
  report : s.out.report ≠ 0#3 → s.out.report ≠ 7#3 →
    s.halted = true ∧ s.cause = s.out.report ∧ s.tval = s.out.reportInfo

/-! ## Runs -/

/-- `k` steps, stopping at the first fault or refusal: the host's `Core.run` of this machine (`State.run_eq_core`). -/
def State.run : Nat → State → Host.Outcome State Fault Refusal
  | 0, s => .next s
  | k + 1, s =>
    match step s with
    | .next t => State.run k t
    | .fault r => .fault r
    | .refused r => .refused r

/-- The word at PC, whatever PC is (R42). -/
def State.wordAtPC (s : State) : Word := wordOfBytes (s.byteAt s.pc.toNat) (s.byteAt (s.pc.toNat + 1))

/-- The next step is a cycle, not a reset or a load. -/
def State.cycleNext (s : State) : Prop := ∃ key rnd, s.nextMove = .cycle key rnd

/-- The next `n` steps are cycles. -/
def State.cyclesNext (n : Nat) (s : State) : Prop := ∀ m ∈ s.host.take n, ∃ key rnd, m = HostMove.cycle key rnd

/-- The next cycle, if it runs an instruction, does not run one that `p` holds of. -/
def State.runsNone (p : Instr → Bool) (s : State) : Prop := ∀ i, decodeWord s.wordAtPC = .ok i → p i = false

/-- A failed run (R159): the core is halted, or the last cycle reported a decode failure. -/
def State.failed (s : State) : Prop := s.halted = true ∨ s.out.report = 7#3

/-- A finished run (R89): PC names a JP to itself. -/
def State.finished (s : State) : Prop :=
  s.halted = false ∧ s.pc.toNat ≤ 4094 ∧ ∃ nnn, decodeWord s.wordAtPC = .ok (.jpAddr nnn) ∧ zext12 nnn = s.pc

end Sys2Proof.Machine
end

