-- ==== Sys2Proof/Certificates/Slice0/Obligations.lean ====
section
/-! DEFINITION. The statements for the provers. Each docstring names the rules of spec/ it formalises. Numbers are taken
with toNat, so that a statement is the spec's integer arithmetic, not the model's. -/

open Sys2Proof Sys2Proof.Machine

/-! ## Encoding -/

/-- Every well-formed instruction, every operand at every value: decoding its word, or its two bytes with any bytes after
them, gives it back (R60, R61, R66; the numbers of the table are the spec's decision D2). -/
def Obligations.DecodeOfEncodeIsTheInstruction : Prop :=
  ∀ (i : Instr) (rest : List Byte), i.wf = true →
    decodeWord (encode i) = .ok i ∧ decodeBytes (encodeBytes i ++ rest) = .ok (i, rest)

/-- A decoded instruction is well formed, and its word is the word decoded but for the ignored nibble of classes 5 and 9
(R61, R65, R67; decision D3). -/
def Obligations.EncodeOfDecodeIsTheCanonicalWord : Prop :=
  ∀ (w : Word) (i : Instr), decodeWord w = .ok i →
    i.wf = true ∧ encode i = if opField w = 0x5#4 ∨ opField w = 0x9#4 then w &&& 0xFFF0#16 else w

/-- A word decodes to a row of the opcode table exactly when `w & mask == match` for the row (R66; decisions D2
and D3). -/
def Obligations.WordDecodesToTheRowItMatches : Prop :=
  ∀ (w : Word) (i : Instr),
    w &&& i.mask = i.matchBits ↔ ∃ j, decodeWord w = .ok j ∧ j.matchBits = i.matchBits

/-- The words rejected are those of the four rows of R68, by the secondary fields of R65 (the spec's decision
D3). -/
def Obligations.IllegalWordsAreThoseOfTheTable : Prop :=
  ∀ w : Word, (∃ e, decodeWord w = .error e) ↔
    (opField w = 0x0#4 ∧ nnnField w ∉ [0x0E0#12, 0x0EE#12]) ∨
    (opField w = 0x8#4 ∧ nField w ∈ [0x8#4, 0x9#4, 0xA#4, 0xB#4, 0xC#4, 0xD#4, 0xF#4]) ∨
    (opField w = 0xE#4 ∧ kkField w ∉ [0x9E#8, 0xA1#8]) ∨
    (opField w = 0xF#4 ∧
      kkField w ∉ [0x07#8, 0x0A#8, 0x15#8, 0x18#8, 0x1E#8, 0x29#8, 0x33#8, 0x55#8, 0x65#8])

/-- Words written out bit by bit from R66 (decision D2) decode to the instructions they stand for. -/
def Obligations.WordsOfTheSpecDecode : Prop :=
  decodeWord 0b0001001000000100#16 = .ok (.jpAddr 0x204#12) ∧
  decodeWord 0b1000000100000100#16 = .ok (.addVxVy 1#4 0#4) ∧
  decodeWord 0b1101000100100101#16 = .ok (.drwVxVyNibble 1#4 2#4 5#4) ∧
  decodeWord 0b1111000101011111#16 = .error (.classF 0xF15F#16) ∧
  decodeWord 0b1111001001010101#16 = .ok (.ldMemVx 2#4) ∧
  decodeWord 0b1110000110011110#16 = .ok (.skpVx 1#4)

/-! ## The cycle -/

/-- A cycle at a legal word is the execute step of the decoded instruction, between the start of the cycle and the tick,
which a fatal fault skips (R80, R83 to R86; the fault is decision D5). -/
def Obligations.StepRunsTheDecodedInstruction : Prop :=
  ∀ (s : State) (key : BitVec 16) (rnd : Byte) (i : Instr),
    s.nextMove = .cycle key rnd → s.halted = false → s.pc.toNat ≤ 4094 → decodeWord s.wordAtPC = .ok i →
    ∃ t, exec i (s.beginCycle key rnd) = .next t ∧ step s = .next (if t.halted then t else t.tick)

/-- The start of a cycle samples the inputs, zeroes the outputs and changes no state of the core (R80, R82;
decisions D1 and D28). -/
def Obligations.CycleStartsWithSampledInputs : Prop :=
  ∀ (s : State) (key : BitVec 16) (rnd : Byte),
    (s.beginCycle key rnd).key = key ∧ (s.beginCycle key rnd).rnd = rnd ∧
    (s.beginCycle key rnd).out = Outputs.none ∧ KeepsMachine s (s.beginCycle key rnd) ∧
    KeepsStatus s (s.beginCycle key rnd)

/-- R86: the tick's arithmetic; every cycle that is neither halted nor faulting ends in it; a faulting one does not
tick (R80, R155; the spec's decision D5, log 9); an illegal word ticks (R88, R152; D4, log 10). `sound_active` from ST
before the decrement is the spec's decision D27. -/
def Obligations.TickEndsEveryRunningCycle : Prop :=
  (∀ s : State, s.tick.dt.toNat = s.dt.toNat - 1 ∧ s.tick.st.toNat = s.st.toNat - 1 ∧
    s.tick.out = { s.out with soundActive := decide (0 < s.st.toNat) } ∧
    KeepsMemory s s.tick ∧ KeepsRegsBut [] s s.tick ∧ s.tick.i = s.i ∧ s.tick.pc = s.pc ∧ KeepsStack s s.tick ∧
    KeepsDisplay s s.tick ∧ KeepsStatus s s.tick ∧ KeepsOutside s s.tick) ∧
  (∀ (s u : State) (key : BitVec 16) (rnd : Byte),
    s.nextMove = .cycle key rnd → s.halted = false → step s = .next u →
    (u.halted = true → KeepsTimers s u ∧ u.out.soundActive = false) ∧
    (u.halted = false → ∃ t, u = t.tick ∧
      ((∃ i, decodeWord s.wordAtPC = .ok i ∧ exec i (s.beginCycle key rnd) = .next t) ∨
       ((∃ e, decodeWord s.wordAtPC = .error e) ∧
         t = (s.beginCycle key rnd).reportDecodeFailure s.wordAtPC))))

/-- R152: an illegal word is reported and ticked, and nothing else changes; the next cycle fetches the same word (the
spec's decision D4; log 10). -/
def Obligations.DecodeFailureReportsAndTicks : Prop :=
  ∀ (s : State) (key : BitVec 16) (rnd : Byte) (e : DecodeFailure),
    s.nextMove = .cycle key rnd → s.halted = false → s.pc.toNat ≤ 4094 → decodeWord s.wordAtPC = .error e →
    ∃ t, step s = .next t ∧
      t.out = { soundActive := decide (0 < s.st.toNat), redraw := false, report := 7#3, reportInfo := s.wordAtPC } ∧
      t.dt.toNat = s.dt.toNat - 1 ∧ t.st.toNat = s.st.toNat - 1 ∧
      KeepsMemory s t ∧ KeepsRegsBut [] s t ∧ t.i = s.i ∧ t.pc = s.pc ∧ KeepsStack s t ∧ KeepsDisplay s t ∧
      KeepsStatus s t ∧ t.wordAtPC = s.wordAtPC

/-- R88: while the host asks for cycles, the core stays on an illegal word for ever, reporting it, with the timers running
down and nothing else changing (the spec's decision D4; log 10). -/
def Obligations.DecodeFailureRepeatsForEver : Prop :=
  ∀ (k : Nat) (s : State) (e : DecodeFailure),
    s.cyclesNext k → s.halted = false → s.pc.toNat ≤ 4094 → decodeWord s.wordAtPC = .error e →
    ∃ t, s.run k = .next t ∧ (0 < k → t.out.report = 7#3 ∧ t.out.reportInfo = s.wordAtPC) ∧
      t.dt.toNat = s.dt.toNat - k ∧ t.st.toNat = s.st.toNat - k ∧
      KeepsMemory s t ∧ KeepsRegsBut [] s t ∧ t.i = s.i ∧ t.pc = s.pc ∧ KeepsStack s t ∧ KeepsDisplay s t ∧
      KeepsStatus s t

/-- R83: the fetch reads two bytes, high byte first, from any address up to 4094, and raises the fault above it (the
spec's decision D32). -/
def Obligations.FetchIsBigEndianAndRangeChecked : Prop :=
  (∀ s : State, s.pc.toNat ≤ 4094 →
    ∃ w, s.fetch = .ok w ∧ w.toNat = (s.byteAt s.pc.toNat).toNat * 256 + (s.byteAt (s.pc.toNat + 1)).toNat) ∧
  (∀ (s : State) (key : BitVec 16) (rnd : Byte),
    s.nextMove = .cycle key rnd → s.halted = false → 4094 < s.pc.toNat →
    ∃ t, step s = .next t ∧ FaultEntered 1#3 s.pc (s.beginCycle key rnd) t)

/-- R81: a cycle of a halted core changes nothing and its outputs are 0 (the spec's decision D31). -/
def Obligations.HaltedCycleChangesNothing : Prop :=
  ∀ (s : State) (key : BitVec 16) (rnd : Byte), s.nextMove = .cycle key rnd → s.halted = true →
    ∃ t, step s = .next t ∧ KeepsMachine s t ∧ KeepsStatus s t ∧ t.out = Outputs.none

/-! ## Reset and the load port -/

/-- The reset move, at any parameters: R30's table, with `V` and I at 0 where `RESET_V = zero` (R30, R181). That the
host's later moves and the parameters outlive it is the model's choice (logs 1 and 4); `V` and I, SP and the status
registers at 0 are the spec's decision D25. -/
def Obligations.ResetMoveSetsEveryPiece : Prop :=
  ∀ s : State, s.nextMove = .reset →
    ∃ t, step s = .next t ∧
      (∀ a, t.byteAt a = if h : a < 80 then s.cfg.font[a] else 0#8) ∧ t.pc = 0x200#16 ∧
      t.dt = 0#8 ∧ t.st = 0#8 ∧ t.sp = 0#4 ∧ (∀ k, t.slot k = 0#16) ∧ (∀ p, t.disp.pixel p = false) ∧
      t.halted = false ∧ t.cause = 0#3 ∧ t.tval = 0#16 ∧ t.out = Outputs.none ∧
      (s.cfg.resetV = .zero → (∀ r, t.reg r = 0#8) ∧ t.i = 0#16) ∧
      t.cfg = s.cfg ∧ t.host = s.host.tail ∧ t.started = false

/-- The state after reset at the default parameters (R30). That memory lists nothing is the model's representation
(log 6): an unlisted address 0 to 79 reads as the default FONT, the spec's decision D24. The zeroes of `V` and I are its
decision D25 (log 5). -/
def Obligations.ResetStateIsTheSpecs : Prop :=
  State.reset.mem = [] ∧ (∀ a, 80 ≤ a → State.reset.byteAt a = 0#8) ∧ State.reset.pc = 0x200#16 ∧
  State.reset.sp = 0#4 ∧ (∀ k, State.reset.slot k = 0#16) ∧ State.reset.dt = 0#8 ∧ State.reset.st = 0#8 ∧
  (∀ p, State.reset.disp.pixel p = false) ∧ (∀ r, State.reset.reg r = 0#8) ∧ State.reset.i = 0#16 ∧
  State.reset.halted = false ∧ State.reset.cause = 0#3 ∧ State.reset.tval = 0#16

/-- The load port writes one byte of memory before the first cycle (R26, R184); after it the move is refused, which is the
model's choice (log 3), since R185 gives a model no such move. -/
def Obligations.LoadPortWritesOneByteBeforeTheFirstCycle : Prop :=
  ∀ (s : State) (a : Addr12) (b : Byte), s.nextMove = .load a b →
    (s.started = false → ∃ t, step s = .next t ∧ t.byteAt a.toNat = b ∧ KeepsMemoryBut a.toNat 1 s t ∧
      KeepsRegsBut [] s t ∧ t.i = s.i ∧ t.pc = s.pc ∧ KeepsStack s t ∧ KeepsTimers s t ∧ KeepsDisplay s t ∧
      KeepsStatus s t ∧ t.out = s.out ∧ t.cfg = s.cfg ∧ t.started = false ∧ t.host = s.host.tail) ∧
    (s.started = true → step s = .refused .loadAfterFirstCycle)

/-- The boot sequence from any state (R183, R184): reset, then byte k of the image at 0x200 + k, everything else at its
reset value; an image longer than 3584 bytes is refused (the spec's decision D33). That these are moves
run one by one is the model's choice (log 1). -/
def Obligations.BootSequenceLoadsTheImage : Prop :=
  ∀ image : List Byte,
    (3584 < image.length → bootMoves image = none) ∧
    (image.length ≤ 3584 → ∃ moves, bootMoves image = some moves ∧
      ∀ (s : State) (rest : List HostMove), s.host = moves ++ rest →
        ∃ t, s.run moves.length = .next t ∧
          (∀ k (h : k < image.length), t.byteAt (0x200 + k) = image[k]) ∧
          (∀ a, a < 0x200 ∨ 0x200 + image.length ≤ a → t.byteAt a = if h : a < 80 then s.cfg.font[a] else 0#8) ∧
          t.pc = 0x200#16 ∧ t.sp = 0#4 ∧ t.dt = 0#8 ∧ t.st = 0#8 ∧ t.halted = false ∧
          (∀ p, t.disp.pixel p = false) ∧ t.started = false ∧ t.host = rest)

/-! ## Control transfer -/

/-- R91: RET takes PC from the slot SP names, plus 2, and decrements SP; on an empty stack it raises code 5
(the spec's decisions D5 and D6). -/
def Obligations.RetPopsAndStepsPastTheCall : Prop :=
  ∀ s : State,
    (s.sp ≠ 0#4 → ∃ t, exec .ret s = .next t ∧ t.pc.toNat = ((s.slot s.sp).toNat + 2) % 65536 ∧
      t.sp.toNat = s.sp.toNat - 1 ∧ (∀ k, t.slot k = s.slot k) ∧ KeepsMemory s t ∧ KeepsRegsBut [] s t ∧ t.i = s.i ∧
      KeepsTimers s t ∧ KeepsDisplay s t ∧ KeepsStatus s t ∧ t.out = s.out ∧ KeepsOutside s t) ∧
    (s.sp = 0#4 → RaisesFault .ret 5#3 0 s)

/-- R93: CALL increments SP, writes its own address to the slot SP then names, and jumps; on a full stack it raises code
4 (the spec's decisions D5 and D6). -/
def Obligations.CallPushesItsOwnAddress : Prop :=
  ∀ (s : State) (nnn : Addr12),
    (s.sp ≠ 15#4 → ∃ t, exec (.callAddr nnn) s = .next t ∧ t.pc.toNat = nnn.toNat ∧
      t.sp.toNat = s.sp.toNat + 1 ∧ t.slot t.sp = s.pc ∧ (∀ k, k ≠ t.sp → t.slot k = s.slot k) ∧
      KeepsMemory s t ∧ KeepsRegsBut [] s t ∧ t.i = s.i ∧ KeepsTimers s t ∧ KeepsDisplay s t ∧ KeepsStatus s t ∧
      t.out = s.out ∧ KeepsOutside s t) ∧
    (s.sp = 15#4 → RaisesFault (.callAddr nnn) 4#3 0 s)

/-- R93's round trip: CALL then RET, with any instructions between them that leave the stack as CALL left it, restores SP
and leaves PC at the call site + 2, for any starting PC and target. -/
def Obligations.CallThenRetReturnsPastTheCallSite : Prop :=
  ∀ (s t u : State) (nnn : Addr12), s.sp ≠ 15#4 → exec (.callAddr nnn) s = .next t → KeepsStack t u →
    ∃ v, exec .ret u = .next v ∧ v.pc = s.pc + 2#16 ∧ v.sp = s.sp

/-- R92: JP puts its address immediate in PC and does nothing else. -/
def Obligations.JpSetsPC : Prop :=
  ∀ (s : State) (nnn : Addr12), LeavesPC (.jpAddr nnn) (BitVec.ofNat 16 nnn.toNat) s

/-- R98: the offset register of `Bnnn` is `V[x]` (conflict C6), and the sum is not masked to 12 bits (the spec's decision
D21). -/
def Obligations.JpWithOffsetAddsTheRegister : Prop :=
  ∀ (s : State) (x : RegId) (nnn : Addr12),
    LeavesPC (.jpVxAddr x nnn) (BitVec.ofNat 16 (nnn.toNat + (s.reg x).toNat)) s

/-- R94 to R97: a skip advances PC by 4 when its condition holds, else by 2, and changes nothing else. -/
def Obligations.SkipsAdvanceByFourOrTwo : Prop :=
  ∀ (s : State) (x y : RegId) (kk : Byte),
    LeavesPC (.seVxByte x kk) (s.pc + if s.reg x = kk then 4#16 else 2#16) s ∧
    LeavesPC (.sneVxByte x kk) (s.pc + if s.reg x = kk then 2#16 else 4#16) s ∧
    LeavesPC (.seVxVy x y) (s.pc + if s.reg x = s.reg y then 4#16 else 2#16) s ∧
    LeavesPC (.sneVxVy x y) (s.pc + if s.reg x = s.reg y then 2#16 else 4#16) s

/-! ## Register load, arithmetic, logic, shifts, random -/

/-- R101 and R102: LD Vx, byte and ADD Vx, byte write `V[x]` and no flag, whatever the sum. -/
def Obligations.LoadAndAddByteWriteNoFlag : Prop :=
  ∀ (s : State) (x : RegId) (kk : Byte),
    LeavesResult (.ldVxByte x kk) x kk s ∧
    LeavesResult (.addVxByte x kk) x (BitVec.ofNat 8 ((s.reg x).toNat + kk.toNat)) s

/-- R103 to R106: assign never writes VF as a flag; OR, AND, XOR bit by bit, VF by LOGIC_VF (the spec's decision D10, and
D11 for the order of the writes). -/
def Obligations.AssignAndLogicOpsWriteVFByLogicVF : Prop :=
  (∀ (s : State) (x y : RegId), LeavesResult (.ldVxVy x y) x (s.reg y) s) ∧
  ∀ (s : State) (x y : RegId) (i : Instr) (r : Byte),
    (i, r) ∈ [(Instr.orVxVy x y, s.reg x ||| s.reg y), (Instr.andVxVy x y, s.reg x &&& s.reg y),
              (Instr.xorVxVy x y, s.reg x ^^^ s.reg y)] →
    (s.cfg.logicVF = .unchanged → LeavesResult i x r s) ∧
    (s.cfg.logicVF = .zero → LeavesResultAndFlag i x r.toNat 0 s)

/-- R107: the sum modulo 256 and the carry out; no carry in (the spec's decision D8, and D11 at x = 15). -/
def Obligations.AddSetsCarry : Prop :=
  ∀ (s : State) (x y : RegId),
    LeavesResultAndFlag (.addVxVy x y) x (((s.reg x).toNat + (s.reg y).toNat) % 256)
      (if 255 < (s.reg x).toNat + (s.reg y).toNat then 1 else 0) s

/-- R108 and R110: both subtractions, VF by SUB_FLAG (the spec's decision D7, and D11 at x = 15). -/
def Obligations.SubtractionsSetFlagBySubFlag : Prop :=
  ∀ (s : State) (x y : RegId) (a b : Nat), a = (s.reg x).toNat → b = (s.reg y).toNat →
    (s.cfg.subFlag = .noBorrow →
      LeavesResultAndFlag (.subVxVy x y) x ((a + 256 - b) % 256) (if b ≤ a then 1 else 0) s ∧
      LeavesResultAndFlag (.subnVxVy x y) x ((b + 256 - a) % 256) (if a ≤ b then 1 else 0) s) ∧
    (s.cfg.subFlag = .borrow →
      LeavesResultAndFlag (.subVxVy x y) x ((a + 256 - b) % 256) (if a < b then 1 else 0) s ∧
      LeavesResultAndFlag (.subnVxVy x y) x ((b + 256 - a) % 256) (if b < a then 1 else 0) s)

/-- R109 and R111: the shifts by one place, the register by SHIFT_SRC, VF the bit shifted out (the spec's decision D9, and
D11 at x = 15). -/
def Obligations.ShiftsSetFlagToTheBitShiftedOut : Prop :=
  ∀ (s : State) (x y : RegId) (a : Nat),
    (s.cfg.shiftSrc = .vx ∧ a = (s.reg x).toNat ∨ s.cfg.shiftSrc = .vy ∧ a = (s.reg y).toNat) →
    LeavesResultAndFlag (.shrVx x y) x (a / 2) (a % 2) s ∧
    LeavesResultAndFlag (.shlVx x y) x (2 * a % 256) (a / 128) s

/-- R112: the random byte and the immediate, for every random byte (the spec's decision D26); no flag. -/
def Obligations.RndMasksTheRandomByte : Prop :=
  ∀ (s : State) (x : RegId) (kk : Byte), LeavesResult (.rndVxByte x kk) x (s.rnd &&& kk) s

/-! ## Index register and memory -/

/-- R121 and R122: LD I loads the address, ADD I adds modulo 65536; no flag, no fault. -/
def Obligations.IndexInstructionsWriteI : Prop :=
  ∀ (s : State) (x : RegId) (nnn : Addr12) (i : Instr) (v : Nat),
    (i, v) ∈ [(Instr.ldIAddr nnn, nnn.toNat), (Instr.addIVx x, (s.i.toNat + (s.reg x).toNat) % 65536)] →
    ∃ t, exec i s = .next t ∧ t.i.toNat = v ∧ t.pc = s.pc + 2#16 ∧ KeepsAllButIndex s t

/-- R123: LD F multiplies the whole register value by 5 (the spec's decision D17: not its low nibble). -/
def Obligations.FontAddressIsFiveTimesTheValue : Prop :=
  ∀ (s : State) (x : RegId),
    ∃ t, exec (.ldFVx x) s = .next t ∧ t.i.toNat = (s.reg x).toNat * 5 ∧ t.pc = s.pc + 2#16 ∧ KeepsAllButIndex s t

/-- R124: the three decimal digits at I, I + 1, I + 2; above 4093 code 3 and no byte written (the spec's
decision D5). -/
def Obligations.BcdStoresThreeDigits : Prop :=
  ∀ (s : State) (x : RegId),
    (s.i.toNat + 2 ≤ 4095 → ∃ t, exec (.ldBVx x) s = .next t ∧
      (t.byteAt (s.effAddr 0)).toNat = (s.reg x).toNat / 100 ∧
      (t.byteAt (s.effAddr 1)).toNat = (s.reg x).toNat / 10 % 10 ∧
      (t.byteAt (s.effAddr 2)).toNat = (s.reg x).toNat % 10 ∧
      KeepsMemoryBut (s.effAddr 0) 3 s t ∧ KeepsRegsBut [] s t ∧ t.i = s.i ∧ t.pc = s.pc + 2#16 ∧ KeepsStack s t ∧
      KeepsTimers s t ∧ KeepsDisplay s t ∧ KeepsStatus s t ∧ t.out = s.out ∧ KeepsOutside s t) ∧
    (4095 < s.i.toNat + 2 → RaisesFault (.ldBVx x) 3#3 (max s.i.toNat 4096) s)

/-- R125: `V[0]` to `V[x]` at I to I + x, I by MEMIDX_I; out of range code 3 and no byte written (the spec's
decisions D5 and D16). -/
def Obligations.BlockStoreWritesRegisters : Prop :=
  ∀ (s : State) (x : RegId),
    (s.i.toNat + x.toNat ≤ 4095 → ∃ t, exec (.ldMemVx x) s = .next t ∧
      (∀ r : RegId, r.toNat ≤ x.toNat → t.byteAt (s.effAddr r.toNat) = s.reg r) ∧
      KeepsMemoryBut (s.effAddr 0) (x.toNat + 1) s t ∧ KeepsRegsBut [] s t ∧
      (s.cfg.memIdxI = .unchanged → t.i = s.i) ∧
      (s.cfg.memIdxI = .advance → t.i.toNat = (s.i.toNat + x.toNat + 1) % 65536) ∧
      t.pc = s.pc + 2#16 ∧ KeepsStack s t ∧ KeepsTimers s t ∧ KeepsDisplay s t ∧ KeepsStatus s t ∧ t.out = s.out ∧
      KeepsOutside s t) ∧
    (4095 < s.i.toNat + x.toNat → RaisesFault (.ldMemVx x) 3#3 (max s.i.toNat 4096) s)

/-- R126: `V[0]` to `V[x]` from I to I + x, I by MEMIDX_I; out of range code 2 and no register written (the
spec's decisions D5 and D16). -/
def Obligations.BlockLoadReadsRegisters : Prop :=
  ∀ (s : State) (x : RegId),
    (s.i.toNat + x.toNat ≤ 4095 → ∃ t, exec (.ldVxMem x) s = .next t ∧
      (∀ r : RegId, r.toNat ≤ x.toNat → t.reg r = s.byteAt (s.effAddr r.toNat)) ∧
      (∀ r : RegId, x.toNat < r.toNat → t.reg r = s.reg r) ∧ KeepsMemory s t ∧
      (s.cfg.memIdxI = .unchanged → t.i = s.i) ∧
      (s.cfg.memIdxI = .advance → t.i.toNat = (s.i.toNat + x.toNat + 1) % 65536) ∧
      t.pc = s.pc + 2#16 ∧ KeepsStack s t ∧ KeepsTimers s t ∧ KeepsDisplay s t ∧ KeepsStatus s t ∧ t.out = s.out ∧
      KeepsOutside s t) ∧
    (4095 < s.i.toNat + x.toNat → RaisesFault (.ldVxMem x) 2#3 (max s.i.toNat 4096) s)

/-- R54: a store is seen by the very next fetch of its bytes (derived in the spec from R42, R49, R51). -/
def Obligations.FetchSeesTheBytesStored : Prop :=
  ∀ (s t : State) (x : RegId), 1 ≤ x.toNat → s.i.toNat + x.toNat ≤ 4095 → exec (.ldMemVx x) s = .next t →
    (t.jump s.i).fetch = .ok (wordOfBytes (s.reg 0#4) (s.reg 1#4))

/-! ## Display -/

/-- R131: every pixel clear, VF untouched, `redraw` not raised (the spec's decision D19). -/
def Obligations.ClsClearsEveryPixel : Prop :=
  ∀ s : State, ∃ t, exec .cls s = .next t ∧ (∀ p, t.disp.pixel p = false) ∧ t.pc = s.pc + 2#16 ∧
    KeepsMemory s t ∧ KeepsRegsBut [] s t ∧ t.i = s.i ∧ KeepsStack s t ∧ KeepsTimers s t ∧ KeepsStatus s t ∧
    t.out = s.out ∧ KeepsOutside s t

/-- R130: where a sprite bit lands, at both values of DRAW_WRAP (the spec's decision D12). -/
def Obligations.PlaceReducesCoordinates : Prop :=
  ∀ x y : Nat,
    (place .coord x y).px.val = x % 64 ∧ (place .coord x y).py.val = y % 32 ∧
    (place .linear x y).py.val * 64 + (place .linear x y).px.val = (x + 64 * y) % 2048

/-- R132: DRW toggles exactly the pixels its set bits land on, sets VF to 1 exactly when one of them was set, and raises
`redraw`, for every n, 0 included; out of range it raises code 2 and draws nothing (the spec's decisions D5 and D12
to D15). -/
def Obligations.DrawTogglesTheSpritesPixels : Prop :=
  ∀ (s : State) (x y : RegId) (n : Nibble),
    (n = 0#4 ∨ s.i.toNat + n.toNat - 1 ≤ 4095 → ∃ t, exec (.drwVxVyNibble x y n) s = .next t ∧
      (∀ p, t.disp.pixel p ≠ s.disp.pixel p ↔ ∃ r c, r < n.toNat ∧ c < 8 ∧
        (s.byteAt (s.effAddr r)).getLsbD (7 - c) = true ∧
        place s.cfg.drawWrap ((s.reg x).toNat + c) ((s.reg y).toNat + r) = p) ∧
      ((∃ p, s.disp.pixel p = true ∧ t.disp.pixel p = false) → t.reg regVF = 1#8) ∧
      ((∀ p, s.disp.pixel p = true → t.disp.pixel p = true) → t.reg regVF = 0#8) ∧
      t.out = { s.out with redraw := true } ∧ t.pc = s.pc + 2#16 ∧ KeepsMemory s t ∧ KeepsRegsBut [regVF] s t ∧
      t.i = s.i ∧ KeepsStack s t ∧ KeepsTimers s t ∧ KeepsStatus s t ∧ KeepsOutside s t) ∧
    (n ≠ 0#4 → 4095 < s.i.toNat + n.toNat - 1 → RaisesFault (.drwVxVyNibble x y n) 2#3 (max s.i.toNat 4096) s)

/-- R133: drawing the same sprite twice at one place restores the display; the first DRW sets VF exactly when a pixel of
the sprite was set, the second exactly when one was clear (derived in the spec from R132). -/
def Obligations.DrawingTwiceRestoresTheDisplay : Prop :=
  ∀ (s : State) (x y : RegId) (n : Nibble), x ≠ regVF → y ≠ regVF →
    (n = 0#4 ∨ s.i.toNat + n.toNat - 1 ≤ 4095) →
    ∃ t u, exec (.drwVxVyNibble x y n) s = .next t ∧ exec (.drwVxVyNibble x y n) t = .next u ∧
      (∀ p, u.disp.pixel p = s.disp.pixel p) ∧
      (t.reg regVF = 1#8 ↔ ∃ p, t.disp.pixel p ≠ s.disp.pixel p ∧ s.disp.pixel p = true) ∧
      (u.reg regVF = 1#8 ↔ ∃ p, t.disp.pixel p ≠ s.disp.pixel p ∧ s.disp.pixel p = false)

/-! ## Keypad and timers -/

/-- R141 and R142: the key tested is the one the register's value names; a value above 15 raises code 6 (the
spec's decision D18). -/
def Obligations.KeySkipsTestTheKeyNamed : Prop :=
  ∀ (s : State) (x : RegId) (k : Nat), k = (s.reg x).toNat →
    (k ≤ 15 →
      LeavesPC (.skpVx x) (s.pc + if s.key.getLsbD k = true then 4#16 else 2#16) s ∧
      LeavesPC (.sknpVx x) (s.pc + if s.key.getLsbD k = true then 2#16 else 4#16) s) ∧
    (15 < k → RaisesFault (.skpVx x) 6#3 k s ∧ RaisesFault (.sknpVx x) 6#3 k s)

/-- R143, R146, R147: the three timer instructions at the execute step, and the tick of the same cycle after them. -/
def Obligations.TimerInstructionsMoveTheCounters : Prop :=
  (∀ (s : State) (x : RegId),
    LeavesResult (.ldVxDT x) x s.dt s ∧
    (∃ t, exec (.ldDTVx x) s = .next t ∧ t.dt = s.reg x ∧ t.st = s.st ∧ t.pc = s.pc + 2#16 ∧ KeepsMemory s t ∧
      KeepsRegsBut [] s t ∧ t.i = s.i ∧ KeepsStack s t ∧ KeepsDisplay s t ∧ KeepsStatus s t ∧ t.out = s.out ∧
      KeepsOutside s t) ∧
    (∃ t, exec (.ldSTVx x) s = .next t ∧ t.st = s.reg x ∧ t.dt = s.dt ∧ t.pc = s.pc + 2#16 ∧ KeepsMemory s t ∧
      KeepsRegsBut [] s t ∧ t.i = s.i ∧ KeepsStack s t ∧ KeepsDisplay s t ∧ KeepsStatus s t ∧ t.out = s.out ∧
      KeepsOutside s t)) ∧
  (∀ (s : State) (x : RegId), s.cycleNext → s.halted = false → s.pc.toNat ≤ 4094 →
    (decodeWord s.wordAtPC = .ok (.ldDTVx x) → ∃ t, step s = .next t ∧ t.dt.toNat = (s.reg x).toNat - 1) ∧
    (decodeWord s.wordAtPC = .ok (.ldSTVx x) → ∃ t, step s = .next t ∧ t.st.toNat = (s.reg x).toNat - 1 ∧
      t.out.soundActive = decide (s.reg x ≠ 0#8)) ∧
    (decodeWord s.wordAtPC = .ok (.ldVxDT x) → ∃ t, step s = .next t ∧ t.reg x = s.dt ∧
      t.dt.toNat = s.dt.toNat - 1))

/-- R144: with no key down nothing changes, PC included; else `V[x]` takes the least key that is down. -/
def Obligations.KeyWaitTakesTheLeastKeyDown : Prop :=
  ∀ (s : State) (x : RegId),
    (s.key = 0#16 → exec (.ldVxK x) s = .next s) ∧
    (∀ k, s.key.getLsbD k = true → (∀ j, j < k → s.key.getLsbD j = false) →
      LeavesResult (.ldVxK x) x (BitVec.ofNat 8 k) s)

/-- R144 over cycles: while the host drives key = 0 the core stays on LD Vx, K with its timers running down; the first
cycle with a key down ends the wait. -/
def Obligations.KeyWaitBlocksUntilAKeyIsDown : Prop :=
  ∀ (s : State) (x : RegId) (rnds : List Byte) (key : BitVec 16) (rnd : Byte) (rest : List HostMove) (k : Nat),
    s.halted = false → s.pc.toNat ≤ 4094 → decodeWord s.wordAtPC = .ok (.ldVxK x) →
    s.host = rnds.map (fun r => .cycle 0#16 r) ++ .cycle key rnd :: rest →
    key.getLsbD k = true → (∀ j, j < k → key.getLsbD j = false) →
    ∃ t u, s.run rnds.length = .next t ∧ t.pc = s.pc ∧ KeepsRegsBut [] s t ∧
      t.dt.toNat = s.dt.toNat - rnds.length ∧
      s.run (rnds.length + 1) = .next u ∧ u.pc = s.pc + 2#16 ∧ (u.reg x).toNat = k ∧ KeepsRegsBut [x] s u ∧
      KeepsMemory s u ∧ u.i = s.i ∧ KeepsStack s u ∧ KeepsDisplay s u ∧ KeepsStatus s u ∧
      u.dt.toNat = s.dt.toNat - (rnds.length + 1) ∧ u.st.toNat = s.st.toNat - (rnds.length + 1) ∧ u.host = rest

/-- R148 for DT: over n cycles that run no LD DT and raise no fault, DT counts down by n, floor at zero. -/
def Obligations.DelayCounterCountsCycles : Prop :=
  ∀ (n : Nat) (s t : State), s.cyclesNext n →
    (∀ j u, j < n → s.run j = .next u → u.runsNone (fun i => match i with | .ldDTVx _ => true | _ => false)) →
    s.run n = .next t → t.halted = false → t.dt.toNat = s.dt.toNat - n

/-- R148 for ST: over n + 1 cycles that run no LD ST and raise no fault, the last one is sounding exactly while ST had not
run out before it (`sound_active` from ST before the decrement is the spec's decision D27). -/
def Obligations.SoundIsActiveWhileStLasts : Prop :=
  ∀ (n : Nat) (s t : State), s.cyclesNext (n + 1) →
    (∀ j u, j < n + 1 → s.run j = .next u → u.runsNone (fun i => match i with | .ldSTVx _ => true | _ => false)) →
    s.run (n + 1) = .next t → t.halted = false →
    t.out.soundActive = decide (n < s.st.toNat) ∧ t.st.toNat = s.st.toNat - (n + 1)

/-! ## The whole machine -/

/-- The invariant holds after reset. -/
def Obligations.ResetMeetsTheInvariant : Prop := Inv State.reset

/-- Every step, of whatever kind, keeps the invariant: canonical memory (R40), the status registers (R24, R28), the stack
slots (R19, R25) and the bound on PC (R16). -/
def Obligations.EveryStepKeepsTheInvariant : Prop := ∀ s t : State, Inv s → step s = .next t → Inv t

/-- No step stops but a load after the first cycle, which R185 gives a model no move for (log 3). -/
def Obligations.OnlyALateLoadStopsAStep : Prop :=
  ∀ s : State, (∃ t, step s = .next t) ∨
    (step s = .refused .loadAfterFirstCycle ∧ s.started = true ∧ ∃ a b, s.nextMove = .load a b)

/-- R158: nothing but a reset leaves the halted state (the spec's decision D5). -/
def Obligations.OnlyResetLeavesTheHaltedState : Prop :=
  ∀ s t : State, s.halted = true → step s = .next t → t.halted = false → s.nextMove = .reset

/-- R156: after a cycle that raised a fatal fault the state is the one before it, plus the three status registers (the
spec's decision D5). -/
def Obligations.FaultsArePrecise : Prop :=
  ∀ s t : State, s.cycleNext → s.halted = false → step s = .next t → t.halted = true →
    KeepsMachine s t ∧ t.out = { soundActive := false, redraw := false, report := t.cause, reportInfo := t.tval }

/-- R151, R153: an instruction faults exactly when the table says so, with the code it gives; no other instruction
faults (the spec's decisions D5, D6 and D18). -/
def Obligations.InstructionsFaultExactlyWhenTheTableSays : Prop :=
  ∀ (i : Instr) (s t : State), s.halted = false → exec i s = .next t →
    (t.halted = true ↔ faultsWhen i s) ∧ (t.halted = true → t.cause = faultCodeOf i)

/-- R48: only LD B and LD [I], Vx write memory, and only the bytes R48 gives. -/
def Obligations.OnlyTheStoresWriteMemory : Prop :=
  ∀ (i : Instr) (s t : State) (a : Nat), exec i s = .next t → t.byteAt a ≠ s.byteAt a →
    (∃ x, i = .ldBVx x ∧ s.i.toNat ≤ a ∧ a ≤ s.i.toNat + 2) ∨
    (∃ x, i = .ldMemVx x ∧ s.i.toNat ≤ a ∧ a ≤ s.i.toNat + x.toNat)

/-- R130: the display is written by CLS and DRW and by nothing else. -/
def Obligations.OnlyClsAndDrwWriteTheDisplay : Prop :=
  ∀ (i : Instr) (s t : State) (p : Pos), exec i s = .next t → t.disp.pixel p ≠ s.disp.pixel p →
    i = .cls ∨ ∃ x y n, i = .drwVxVyNibble x y n

/-- R13: VF changes only in an instruction that writes it as a flag or names register 15 as a destination (a block load
names it when x = 15). -/
def Obligations.VFChangesOnlyAsFlagOrDestination : Prop :=
  ∀ (i : Instr) (s t : State), exec i s = .next t → t.reg regVF ≠ s.reg regVF →
    writesFlag s.cfg i = true ∨ namesVF i = true

/-- R13: a flag write stores 0 or 1. -/
def Obligations.FlagWritesAreZeroOrOne : Prop :=
  ∀ (i : Instr) (s t : State), writesFlag s.cfg i = true → s.halted = false → exec i s = .next t →
    t.halted = false → t.reg regVF = 0#8 ∨ t.reg regVF = 1#8

/-- R25, the column "written by", at the execute step: I, SP, the stack slots, DT and ST each change only in the
instructions listed there (I in the block transfers too at MEMIDX_I = advance, R14). -/
def Obligations.EachRegisterHasItsWriters : Prop :=
  ∀ (i : Instr) (s t : State), exec i s = .next t →
    (t.i ≠ s.i → (∃ nnn, i = .ldIAddr nnn) ∨ (∃ x, i = .addIVx x ∨ i = .ldFVx x) ∨
      (s.cfg.memIdxI = .advance ∧ ∃ x, i = .ldMemVx x ∨ i = .ldVxMem x)) ∧
    (t.sp ≠ s.sp → i = .ret ∨ ∃ nnn, i = .callAddr nnn) ∧
    (∀ k, t.slot k ≠ s.slot k → ∃ nnn, i = .callAddr nnn) ∧
    (t.dt ≠ s.dt → ∃ x, i = .ldDTVx x) ∧ (t.st ≠ s.st → ∃ x, i = .ldSTVx x)

/-- The parameters of R6 are fixed for the machine: no step changes them (log 4). -/
def Obligations.NoStepChangesTheParameters : Prop := ∀ s t : State, step s = .next t → t.cfg = s.cfg

/-- R29: no latched key and no generator state: the inputs of an earlier cycle have no effect on a cycle (derived in
the spec; log 8). -/
def Obligations.EarlierInputsHaveNoEffect : Prop :=
  ∀ (s : State) (key : BitVec 16) (rnd : Byte), s.cycleNext → step { s with key := key, rnd := rnd } = step s

/-- R89: from a jump to itself every cycle leaves all state unchanged except the timers, for as long as the host asks for
cycles (the idiom is the spec's decision D35). -/
def Obligations.SelfJumpKeepsEverythingButTheTimers : Prop :=
  ∀ (n : Nat) (s : State), s.finished → s.cyclesNext n →
    ∃ t, s.run n = .next t ∧ t.finished ∧ KeepsMemory s t ∧ KeepsRegsBut [] s t ∧ t.i = s.i ∧ t.pc = s.pc ∧
      KeepsStack s t ∧ KeepsDisplay s t ∧ KeepsStatus s t ∧ t.dt.toNat = s.dt.toNat - n ∧
      t.st.toNat = s.st.toNat - n

/-- R189: a CALL to itself from an empty stack nests 15 deep, and the sixteenth raises code 4 (the spec's decisions D5 and
D6). -/
def Obligations.SixteenthNestedCallHalts : Prop :=
  ∀ (s : State) (nnn : Addr12), s.halted = false → s.pc.toNat ≤ 4094 → s.sp = 0#4 → s.cyclesNext 16 →
    decodeWord s.wordAtPC = .ok (.callAddr nnn) → zext12 nnn = s.pc →
    (∀ n, n ≤ 15 → ∃ t, s.run n = .next t ∧ t.halted = false ∧ t.sp.toNat = n ∧ t.pc = s.pc) ∧
    (∃ t, s.run 16 = .next t ∧ t.halted = true ∧ t.cause = 4#3 ∧ t.sp = 15#4)

/-- The host's interface: a legal word placed by withFetchWord is what the very next step runs, from any state (the
model's own, log 12; the placing stands for the load of R184). -/
def Obligations.WordPlacedIsTheNextInstruction : Prop :=
  ∀ (s : State) (w : Word) (i : Instr), decodeWord w = .ok i →
    ∃ u key rnd t, u = s.withFetchWord 16 w.toNat ∧ u.nextMove = .cycle key rnd ∧
      exec i (u.beginCycle key rnd) = .next t ∧ step u = .next (if t.halted then t else t.tick)
end

