-- ==== Sys2Proof/Machine/Assembler.lean ====
section
/-! DEFINITION. The assembler syntax of spec/30_encoding.md R70 as data: a line is a mnemonic and operands, destination
first. It names instructions and has no meaning to the machine; the step does not use it. -/

namespace Sys2Proof.Machine

/-- The mnemonics of R66 (D29). -/
inductive Mnemonic where
  | CLS | RET | JP | CALL | SE | SNE | LD | ADD | OR | AND | XOR | SUB | SHR | SUBN | SHL | RND | DRW | SKP | SKNP
  deriving DecidableEq, Repr

/-- The operands of R70: a register, a numeral, and the named ones `I`, `[I]`, `DT`, `ST`, `K`, `F`, `B`. -/
inductive AsmOperand where
  | reg (x : RegId)
  | num (n : Nat)
  | I | mem | DT | ST | K | F | B
  deriving DecidableEq, Repr

/-- One line of assembly (R70). -/
structure AsmLine where
  mnemonic : Mnemonic
  operands : List AsmOperand
  deriving DecidableEq, Repr

/-- A numeral 0 to 255, the field `kk` (R70). -/
def asmByte (n : Nat) : Option Byte := if n < 256 then some (BitVec.ofNat 8 n) else none

/-- A numeral 0 to 0xFFF, the field `nnn` (R70). -/
def asmAddr (n : Nat) : Option Addr12 := if n < 4096 then some (BitVec.ofNat 12 n) else none

/-- A numeral 0 to 15, the field `n` (R70). -/
def asmNibble (n : Nat) : Option Nibble := if n < 16 then some (BitVec.ofNat 4 n) else none

/-- The lines of LD (R70). -/
def asmLd : List AsmOperand → Option Instr
  | [.reg x, .num n] => (asmByte n).map (fun kk => .ldVxByte x kk)
  | [.reg x, .reg y] => some (.ldVxVy x y)
  | [.I, .num n] => (asmAddr n).map (fun a => .ldIAddr a)
  | [.reg x, .DT] => some (.ldVxDT x)
  | [.reg x, .K] => some (.ldVxK x)
  | [.DT, .reg x] => some (.ldDTVx x)
  | [.ST, .reg x] => some (.ldSTVx x)
  | [.F, .reg x] => some (.ldFVx x)
  | [.B, .reg x] => some (.ldBVx x)
  | [.mem, .reg x] => some (.ldMemVx x)
  | [.reg x, .mem] => some (.ldVxMem x)
  | _ => none

/-- The lines of ADD (R70). -/
def asmAdd : List AsmOperand → Option Instr
  | [.reg x, .num n] => (asmByte n).map (fun kk => .addVxByte x kk)
  | [.reg x, .reg y] => some (.addVxVy x y)
  | [.I, .reg x] => some (.addIVx x)
  | _ => none

/-- The lines of JP: JP Vx, addr is refused when x is not the top digit of addr (R67, R70). -/
def asmJp : List AsmOperand → Option Instr
  | [.num n] => (asmAddr n).map (fun a => .jpAddr a)
  | [.reg x, .num n] => (asmAddr n).bind (fun a => if x = topDigit a then some (.jpVxAddr x a) else none)
  | _ => none

/-- A line with two registers (R70). -/
def asmXY (f : RegId → RegId → Instr) : List AsmOperand → Option Instr
  | [.reg x, .reg y] => some (f x y)
  | _ => none

/-- SHR and SHL: without a second operand they assemble with y = 0 (R70). -/
def asmShift (f : RegId → RegId → Instr) : List AsmOperand → Option Instr
  | [.reg x] => some (f x 0#4)
  | [.reg x, .reg y] => some (f x y)
  | _ => none

/-- The lines of SE and SNE (R70). -/
def asmSkip (fb : RegId → Byte → Instr) (fr : RegId → RegId → Instr) : List AsmOperand → Option Instr
  | [.reg x, .num n] => (asmByte n).map (fun kk => fb x kk)
  | [.reg x, .reg y] => some (fr x y)
  | _ => none

/-- A line with one register (R70). -/
def asmX (f : RegId → Instr) : List AsmOperand → Option Instr
  | [.reg x] => some (f x)
  | _ => none

/-- The instruction a line names, or none (R70). -/
def asmInstr (l : AsmLine) : Option Instr :=
  match l.mnemonic with
  | .CLS => if l.operands = [] then some .cls else none
  | .RET => if l.operands = [] then some .ret else none
  | .JP => asmJp l.operands
  | .CALL => match l.operands with
    | [.num n] => (asmAddr n).map (fun a => .callAddr a)
    | _ => none
  | .SE => asmSkip .seVxByte .seVxVy l.operands
  | .SNE => asmSkip .sneVxByte .sneVxVy l.operands
  | .LD => asmLd l.operands
  | .ADD => asmAdd l.operands
  | .OR => asmXY .orVxVy l.operands
  | .AND => asmXY .andVxVy l.operands
  | .XOR => asmXY .xorVxVy l.operands
  | .SUB => asmXY .subVxVy l.operands
  | .SHR => asmShift .shrVx l.operands
  | .SUBN => asmXY .subnVxVy l.operands
  | .SHL => asmShift .shlVx l.operands
  | .RND => match l.operands with
    | [.reg x, .num n] => (asmByte n).map (fun kk => .rndVxByte x kk)
    | _ => none
  | .DRW => match l.operands with
    | [.reg x, .reg y, .num n] => (asmNibble n).map (fun m => .drwVxVyNibble x y m)
    | _ => none
  | .SKP => asmX .skpVx l.operands
  | .SKNP => asmX .sknpVx l.operands

/-- The word a line assembles to (R66, R70). -/
def assemble (l : AsmLine) : Option Word := (asmInstr l).map encode

/-- An instruction written as a line (R66, R70). -/
def asmOf : Instr → AsmLine
  | .cls => ⟨.CLS, []⟩
  | .ret => ⟨.RET, []⟩
  | .jpAddr a => ⟨.JP, [.num a.toNat]⟩
  | .callAddr a => ⟨.CALL, [.num a.toNat]⟩
  | .seVxByte x kk => ⟨.SE, [.reg x, .num kk.toNat]⟩
  | .sneVxByte x kk => ⟨.SNE, [.reg x, .num kk.toNat]⟩
  | .seVxVy x y => ⟨.SE, [.reg x, .reg y]⟩
  | .ldVxByte x kk => ⟨.LD, [.reg x, .num kk.toNat]⟩
  | .addVxByte x kk => ⟨.ADD, [.reg x, .num kk.toNat]⟩
  | .ldVxVy x y => ⟨.LD, [.reg x, .reg y]⟩
  | .orVxVy x y => ⟨.OR, [.reg x, .reg y]⟩
  | .andVxVy x y => ⟨.AND, [.reg x, .reg y]⟩
  | .xorVxVy x y => ⟨.XOR, [.reg x, .reg y]⟩
  | .addVxVy x y => ⟨.ADD, [.reg x, .reg y]⟩
  | .subVxVy x y => ⟨.SUB, [.reg x, .reg y]⟩
  | .shrVx x y => ⟨.SHR, [.reg x, .reg y]⟩
  | .subnVxVy x y => ⟨.SUBN, [.reg x, .reg y]⟩
  | .shlVx x y => ⟨.SHL, [.reg x, .reg y]⟩
  | .sneVxVy x y => ⟨.SNE, [.reg x, .reg y]⟩
  | .ldIAddr a => ⟨.LD, [.I, .num a.toNat]⟩
  | .jpVxAddr x a => ⟨.JP, [.reg x, .num a.toNat]⟩
  | .rndVxByte x kk => ⟨.RND, [.reg x, .num kk.toNat]⟩
  | .drwVxVyNibble x y n => ⟨.DRW, [.reg x, .reg y, .num n.toNat]⟩
  | .skpVx x => ⟨.SKP, [.reg x]⟩
  | .sknpVx x => ⟨.SKNP, [.reg x]⟩
  | .ldVxDT x => ⟨.LD, [.reg x, .DT]⟩
  | .ldVxK x => ⟨.LD, [.reg x, .K]⟩
  | .ldDTVx x => ⟨.LD, [.DT, .reg x]⟩
  | .ldSTVx x => ⟨.LD, [.ST, .reg x]⟩
  | .addIVx x => ⟨.ADD, [.I, .reg x]⟩
  | .ldFVx x => ⟨.LD, [.F, .reg x]⟩
  | .ldBVx x => ⟨.LD, [.B, .reg x]⟩
  | .ldMemVx x => ⟨.LD, [.mem, .reg x]⟩
  | .ldVxMem x => ⟨.LD, [.reg x, .mem]⟩

end Sys2Proof.Machine
end

