-- ==== Sys2Proof/Laws/Assembler.lean ====
section
/-! SUPPORT. The assembler syntax names every well-formed instruction (R70). -/

namespace Sys2Proof.Machine

@[simp] theorem asmByte_toNat (b : Byte) : asmByte b.toNat = some b := by
  simp [asmByte, b.isLt]

@[simp] theorem asmAddr_toNat (a : Addr12) : asmAddr a.toNat = some a := by
  simp [asmAddr, a.isLt]

@[simp] theorem asmNibble_toNat (n : Nibble) : asmNibble n.toNat = some n := by
  simp [asmNibble, n.isLt]

/-- The line of a well-formed instruction names it, and assembles to its word. -/
theorem assemble_asmOf (i : Instr) (h : i.wf = true) : asmInstr (asmOf i) = some i ∧ assemble (asmOf i) = some (encode i) := by
  have key : asmInstr (asmOf i) = some i := by
    cases i <;> simp_all [asmInstr, asmOf, asmJp, asmSkip, asmLd, asmAdd, asmXY, asmShift, asmX, Instr.wf]
  exact ⟨key, by simp [assemble, key]⟩

end Sys2Proof.Machine
end

