-- ==== Sys2Proof/Laws/Decode.lean ====
section
/-! SUPPORT. The fields of the words the encoder builds, and the bytes of a word. -/

namespace Sys2Proof

@[simp] theorem opField_formatA (op : Nibble) (a : Addr12) : opField (formatA op a) = op := by
  apply BitVec.eq_of_getLsbD_eq
  intro i hi
  simp only [opField, formatA, BitVec.getLsbD_extractLsb', BitVec.getLsbD_append, hi,
    decide_true, Bool.true_and]
  simp [show ¬12 + i < 12 by omega, show 12 + i - 12 = i by omega, hi]

@[simp] theorem nnnField_formatA (op : Nibble) (a : Addr12) : nnnField (formatA op a) = a := by
  apply BitVec.eq_of_getLsbD_eq
  intro i hi
  simp only [nnnField, formatA, BitVec.getLsbD_extractLsb', BitVec.getLsbD_append, Nat.zero_add, hi,
    decide_true, Bool.true_and]
  simp [hi]

@[simp] theorem xField_formatA (op : Nibble) (a : Addr12) : xField (formatA op a) = topDigit a := by
  apply BitVec.eq_of_getLsbD_eq
  intro i hi
  simp only [xField, formatA, topDigit, BitVec.getLsbD_extractLsb', BitVec.getLsbD_append, hi,
    decide_true, Bool.true_and]
  simp [show 8 + i < 12 by omega]

@[simp] theorem opField_formatXK (op : Nibble) (x : RegId) (kk : Byte) : opField (formatXK op x kk) = op := by
  apply BitVec.eq_of_getLsbD_eq
  intro i hi
  simp only [opField, formatXK, BitVec.getLsbD_extractLsb', BitVec.getLsbD_append, hi,
    decide_true, Bool.true_and]
  simp [show ¬12 + i < 8 by omega, show ¬12 + i - 8 < 4 by omega, show 12 + i - 8 - 4 = i by omega, hi]

@[simp] theorem xField_formatXK (op : Nibble) (x : RegId) (kk : Byte) : xField (formatXK op x kk) = x := by
  apply BitVec.eq_of_getLsbD_eq
  intro i hi
  simp only [xField, formatXK, BitVec.getLsbD_extractLsb', BitVec.getLsbD_append, hi,
    decide_true, Bool.true_and]
  simp [show ¬8 + i < 8 by omega, show 8 + i - 8 = i by omega, hi]

@[simp] theorem kkField_formatXK (op : Nibble) (x : RegId) (kk : Byte) : kkField (formatXK op x kk) = kk := by
  apply BitVec.eq_of_getLsbD_eq
  intro i hi
  simp only [kkField, formatXK, BitVec.getLsbD_extractLsb', BitVec.getLsbD_append, Nat.zero_add, hi,
    decide_true, Bool.true_and]
  simp [hi]

@[simp] theorem opField_formatXYN (op : Nibble) (x y : RegId) (n : Nibble) : opField (formatXYN op x y n) = op := by
  apply BitVec.eq_of_getLsbD_eq
  intro i hi
  simp only [opField, formatXYN, BitVec.getLsbD_extractLsb', BitVec.getLsbD_append, hi,
    decide_true, Bool.true_and]
  simp [show ¬12 + i < 8 by omega, show ¬12 + i - 8 < 4 by omega, show 12 + i - 8 - 4 = i by omega, hi]

@[simp] theorem xField_formatXYN (op : Nibble) (x y : RegId) (n : Nibble) : xField (formatXYN op x y n) = x := by
  apply BitVec.eq_of_getLsbD_eq
  intro i hi
  simp only [xField, formatXYN, BitVec.getLsbD_extractLsb', BitVec.getLsbD_append, hi,
    decide_true, Bool.true_and]
  simp [show ¬8 + i < 8 by omega, show 8 + i - 8 = i by omega, hi]

@[simp] theorem yField_formatXYN (op : Nibble) (x y : RegId) (n : Nibble) : yField (formatXYN op x y n) = y := by
  apply BitVec.eq_of_getLsbD_eq
  intro i hi
  simp only [yField, formatXYN, BitVec.getLsbD_extractLsb', BitVec.getLsbD_append, hi,
    decide_true, Bool.true_and]
  simp [show 4 + i < 8 by omega, show ¬4 + i < 4 by omega, show 4 + i - 4 = i by omega, hi]

@[simp] theorem nField_formatXYN (op : Nibble) (x y : RegId) (n : Nibble) : nField (formatXYN op x y n) = n := by
  apply BitVec.eq_of_getLsbD_eq
  intro i hi
  simp only [nField, formatXYN, BitVec.getLsbD_extractLsb', BitVec.getLsbD_append, Nat.zero_add, hi,
    decide_true, Bool.true_and]
  simp [show i < 8 by omega, hi]

/-- Laying a word out high byte first and reading it back (R42). -/
@[simp] theorem wordOfBytes_bytes (w : Word) : wordOfBytes (highByte w) (lowByte w) = w := by
  apply BitVec.eq_of_getLsbD_eq
  intro i hi
  simp only [wordOfBytes, highByte, lowByte, BitVec.getLsbD_append, BitVec.getLsbD_extractLsb', Nat.zero_add]
  by_cases h : i < 8
  · simp [h]
  · simp [h, show i - 8 < 8 by omega, show 8 + (i - 8) = i by omega]

/-- The word of two bytes as a number (R42). -/
theorem toNat_wordOfBytes (hi lo : Byte) : (wordOfBytes hi lo).toNat = hi.toNat * 256 + lo.toNat := by
  have hl := lo.isLt
  rw [wordOfBytes, BitVec.toNat_append, ← Nat.shiftLeft_add_eq_or_of_lt hl, Nat.shiftLeft_eq]

/-- A word is the format of its fields. -/
theorem formatA_fields (w : Word) : formatA (opField w) (nnnField w) = w := by
  apply BitVec.eq_of_getLsbD_eq
  intro i hi
  simp only [formatA, opField, nnnField, BitVec.getLsbD_append, BitVec.getLsbD_extractLsb', Nat.zero_add]
  by_cases h : i < 12
  · simp [h]
  · simp [h, show i - 12 < 4 by omega, show 12 + (i - 12) = i by omega]

theorem formatXK_fields (w : Word) : formatXK (opField w) (xField w) (kkField w) = w := by
  apply BitVec.eq_of_getLsbD_eq
  intro i hi
  simp only [formatXK, opField, xField, kkField, BitVec.getLsbD_append, BitVec.getLsbD_extractLsb', Nat.zero_add]
  by_cases h : i < 8
  · simp [h]
  · by_cases h' : i - 8 < 4
    · simp [h, h', show 8 + (i - 8) = i by omega]
    · simp [h, h', show i - 8 - 4 < 4 by omega, show 12 + (i - 8 - 4) = i by omega]

theorem formatXYN_fields (w : Word) : formatXYN (opField w) (xField w) (yField w) (nField w) = w := by
  apply BitVec.eq_of_getLsbD_eq
  intro i hi
  simp only [formatXYN, opField, xField, yField, nField, BitVec.getLsbD_append, BitVec.getLsbD_extractLsb',
    Nat.zero_add]
  by_cases h : i < 4
  · simp [h, show i < 8 by omega]
  · by_cases h1 : i < 8
    · simp [h, h1, show i - 4 < 4 by omega, show 4 + (i - 4) = i by omega]
    · by_cases h' : i - 8 < 4
      · simp [h1, h', show 8 + (i - 8) = i by omega]
      · simp [h1, h', show i - 8 - 4 < 4 by omega, show 12 + (i - 8 - 4) = i by omega]

/-- The top digit of `nnn` is the field `x` (R61, R67). -/
theorem topDigit_nnnField (w : Word) : topDigit (nnnField w) = xField w := by
  conv_rhs => rw [← formatA_fields w]
  rw [xField_formatA]

end Sys2Proof
end

