-- ==== Sys2Proof/Laws/Memory.lean ====
section
/-! SUPPORT. The laws of memory: a read after a write, and the canonical form kept by every memory operation. -/

namespace Sys2Proof.Machine

theorem read_erase_ne (m : Memory) (a b : Nat) (h : b ≠ a) : Memory.read (Memory.erase m a) b = Memory.read m b := by
  induction m with
  | nil => rfl
  | cons c m ih =>
    obtain ⟨k, v⟩ := c
    by_cases hk : k = a
    · subst hk
      simp [Memory.erase, Memory.read, ih, Ne.symm h]
    · simp [Memory.erase, Memory.read, ih, hk]

theorem read_erase_self (m : Memory) (a : Nat) : Memory.read (Memory.erase m a) a = unlisted a := by
  induction m with
  | nil => rfl
  | cons c m ih =>
    obtain ⟨k, v⟩ := c
    by_cases hk : k = a
    · simp [Memory.erase, hk, ih]
    · simp [Memory.erase, Memory.read, hk, ih]

theorem read_insert_ne (m : Memory) (a b : Nat) (v : Byte) (h : b ≠ a) :
    Memory.read (Memory.insert m a v) b = Memory.read m b := by
  induction m with
  | nil => simp [Memory.insert, Memory.read, Ne.symm h]
  | cons c m ih =>
    obtain ⟨k, w⟩ := c
    by_cases hk : a < k
    · simp [Memory.insert, Memory.read, hk, Ne.symm h]
    · simp [Memory.insert, Memory.read, hk, ih]

theorem read_insert_erase_self (m : Memory) (a : Nat) (v : Byte) :
    Memory.read (Memory.insert (Memory.erase m a) a v) a = v := by
  induction m with
  | nil => simp [Memory.erase, Memory.insert, Memory.read]
  | cons c m ih =>
    obtain ⟨k, w⟩ := c
    by_cases hk : k = a
    · simp [Memory.erase, hk, ih]
    · by_cases hl : a < k
      · simp [Memory.erase, Memory.insert, Memory.read, hk, hl]
      · simp [Memory.erase, Memory.insert, Memory.read, hk, hl, ih]

/-- A read of the byte written gives the value written (R49). -/
@[simp] theorem read_write_self (m : Memory) (a : Nat) (v : Byte) : Memory.read (Memory.write m a v) a = v := by
  unfold Memory.write
  split
  · next h => rw [read_erase_self, h]
  · exact read_insert_erase_self m a v

/-- A write leaves every other byte alone (R45, R49). -/
theorem read_write_ne (m : Memory) (a b : Nat) (v : Byte) (h : b ≠ a) :
    Memory.read (Memory.write m a v) b = Memory.read m b := by
  unfold Memory.write
  split
  · exact read_erase_ne m a b h
  · rw [read_insert_ne _ _ _ _ h, read_erase_ne _ _ _ h]

theorem read_write (m : Memory) (a b : Nat) (v : Byte) :
    Memory.read (Memory.write m a v) b = if b = a then v else Memory.read m b := by
  split
  · next h => rw [h, read_write_self]
  · next h => exact read_write_ne m a b v h

/-- What a store of several bytes leaves at each address (R43). -/
theorem read_storeBytes (m : Memory) (a b : Nat) (bs : List Byte) :
    Memory.read (Memory.storeBytes m a bs) b = if a ≤ b then (bs[b - a]?).getD (Memory.read m b) else Memory.read m b := by
  induction bs generalizing m a with
  | nil => simp [Memory.storeBytes]
  | cons c bs ih =>
    rw [Memory.storeBytes, ih]
    by_cases h1 : a + 1 ≤ b
    · have h2 : b - a = (b - (a + 1)) + 1 := by omega
      rw [if_pos h1, if_pos (by omega), read_write_ne _ _ _ _ (by omega), h2, List.getElem?_cons_succ]
    · by_cases h2 : b = a
      · subst h2
        simp
      · rw [if_neg h1, if_neg (by omega), read_write_ne _ _ _ _ h2]

theorem read_storeBytes_outside (m : Memory) (a b : Nat) (bs : List Byte) (h : b < a ∨ a + bs.length ≤ b) :
    Memory.read (Memory.storeBytes m a bs) b = Memory.read m b := by
  rw [read_storeBytes]
  split
  · rw [List.getElem?_eq_none (by omega)]
    rfl
  · rfl

theorem read_storeBytes_inside (m : Memory) (a k : Nat) (bs : List Byte) (h : k < bs.length) :
    Memory.read (Memory.storeBytes m a bs) (a + k) = bs[k] := by
  rw [read_storeBytes, if_pos (by omega), Nat.add_sub_cancel_left, List.getElem?_eq_getElem h]
  rfl

/-! ## The canonical form -/

theorem wfFrom_mono {lo lo' : Nat} {m : Memory} (h : lo' ≤ lo) (hm : Memory.wfFrom lo m = true) :
    Memory.wfFrom lo' m = true := by
  cases m with
  | nil => rfl
  | cons c m =>
    obtain ⟨k, v⟩ := c
    simp only [Memory.wfFrom, Bool.and_eq_true, decide_eq_true_eq] at hm ⊢
    exact ⟨⟨⟨by omega, hm.1.1.2⟩, hm.1.2⟩, hm.2⟩

theorem wfFrom_erase {lo : Nat} {m : Memory} (a : Nat) (hm : Memory.wfFrom lo m = true) :
    Memory.wfFrom lo (Memory.erase m a) = true := by
  induction m generalizing lo with
  | nil => rfl
  | cons c m ih =>
    obtain ⟨k, v⟩ := c
    simp only [Memory.wfFrom, Bool.and_eq_true, decide_eq_true_eq] at hm
    by_cases hk : k = a
    · simp only [Memory.erase, hk, if_true]
      exact wfFrom_mono (by omega) (ih hm.2)
    · simp only [Memory.erase, hk, if_false, Memory.wfFrom, Bool.and_eq_true, decide_eq_true_eq]
      exact ⟨hm.1, ih hm.2⟩

theorem wfFrom_insert_erase {lo : Nat} {m : Memory} {a : Nat} {v : Byte} (ha : lo ≤ a) (hs : a < memSize)
    (hv : v ≠ unlisted a) (hm : Memory.wfFrom lo m = true) :
    Memory.wfFrom lo (Memory.insert (Memory.erase m a) a v) = true := by
  induction m generalizing lo with
  | nil => simp [Memory.erase, Memory.insert, Memory.wfFrom, ha, hs, hv]
  | cons c m ih =>
    obtain ⟨k, w⟩ := c
    simp only [Memory.wfFrom, Bool.and_eq_true, decide_eq_true_eq] at hm
    by_cases hk : k = a
    · subst hk
      simp only [Memory.erase, if_true]
      exact ih ha (wfFrom_mono (by omega) hm.2)
    · by_cases hl : a < k
      · simp only [Memory.erase, hk, if_false, Memory.insert, hl, if_true, Memory.wfFrom, Bool.and_eq_true,
          decide_eq_true_eq]
        exact ⟨⟨⟨ha, hs⟩, hv⟩, ⟨⟨by omega, hm.1.1.2⟩, hm.1.2⟩, wfFrom_erase a hm.2⟩
      · simp only [Memory.erase, hk, if_false, Memory.insert, hl, Memory.wfFrom, Bool.and_eq_true,
          decide_eq_true_eq]
        exact ⟨hm.1, ih (by omega) hm.2⟩

/-- A write below 4096 keeps the canonical form. -/
theorem wf_write {m : Memory} {a : Nat} (v : Byte) (ha : a < memSize) (hm : m.wf = true) :
    (Memory.write m a v).wf = true := by
  unfold Memory.write
  split
  · exact wfFrom_erase a hm
  · next h => exact wfFrom_insert_erase (Nat.zero_le a) ha h hm

/-- A store of several bytes below 4096 keeps the canonical form. -/
theorem wf_storeBytes {m : Memory} {a : Nat} {bs : List Byte} (ha : a + bs.length ≤ memSize) (hm : m.wf = true) :
    (Memory.storeBytes m a bs).wf = true := by
  induction bs generalizing m a with
  | nil => exact hm
  | cons b bs ih =>
    simp only [List.length_cons] at ha
    exact ih (by omega) (wf_write b (by omega) hm)

/-- An address a canonical memory does not list below a bound reads as unlisted. -/
theorem read_of_wfFrom {lo a : Nat} {m : Memory} (hm : Memory.wfFrom lo m = true) (h : a < lo) :
    Memory.read m a = unlisted a := by
  induction m generalizing lo with
  | nil => rfl
  | cons c m ih =>
    obtain ⟨k, v⟩ := c
    simp only [Memory.wfFrom, Bool.and_eq_true, decide_eq_true_eq] at hm
    have hk : k ≠ a := by omega
    simp only [Memory.read, hk, if_false]
    exact ih hm.2 (by omega)

/-- Two canonical memories that read the same at every address are the same list. -/
theorem eq_of_read_eq {lo : Nat} {m m' : Memory} (hm : Memory.wfFrom lo m = true) (hm' : Memory.wfFrom lo m' = true)
    (h : ∀ a, Memory.read m a = Memory.read m' a) : m = m' := by
  induction m generalizing lo m' with
  | nil =>
    cases m' with
    | nil => rfl
    | cons c' m' =>
      obtain ⟨k', v'⟩ := c'
      simp only [Memory.wfFrom, Bool.and_eq_true, decide_eq_true_eq] at hm'
      have := h k'
      simp only [Memory.read, if_true] at this
      exact absurd this.symm hm'.1.2
  | cons c m ih =>
    obtain ⟨k, v⟩ := c
    have hm0 := hm
    simp only [Memory.wfFrom, Bool.and_eq_true, decide_eq_true_eq] at hm
    cases m' with
    | nil =>
      have := h k
      simp only [Memory.read, if_true] at this
      exact absurd this hm.1.2
    | cons c' m' =>
      obtain ⟨k', v'⟩ := c'
      simp only [Memory.wfFrom, Bool.and_eq_true, decide_eq_true_eq] at hm'
      have hkk : k = k' := by
        rcases Nat.lt_trichotomy k k' with hlt | heq | hgt
        · have h1 := h k
          have hne : k' ≠ k := by omega
          simp only [Memory.read, if_true, hne, if_false] at h1
          rw [read_of_wfFrom hm'.2 (by omega)] at h1
          exact absurd h1 hm.1.2
        · exact heq
        · have h1 := h k'
          have hne : k ≠ k' := by omega
          simp only [Memory.read, if_true, hne, if_false] at h1
          rw [read_of_wfFrom hm.2 (by omega)] at h1
          exact absurd h1.symm hm'.1.2
      subst hkk
      have hv : v = v' := by
        have h1 := h k
        simpa only [Memory.read, if_true] using h1
      subst hv
      have htail : m = m' := by
        refine ih hm.2 hm'.2 (fun a => ?_)
        by_cases ha : a = k
        · subst ha
          rw [read_of_wfFrom hm.2 (by omega), read_of_wfFrom hm'.2 (by omega)]
        · have h1 := h a
          have hne : k ≠ a := fun e => ha e.symm
          simpa only [Memory.read, hne, if_false] using h1
      rw [htail]

end Sys2Proof.Machine
end

