-- ==== Sys2Proof/Laws/State.lean ====
section
/-! SUPPORT. One lemma per field of State per update, each true by rfl, so that no proof unfolds a record update; and the
accessors `reg`, `slot` and `byteAt` of an update that does not write what they read. -/

namespace Sys2Proof.Machine

/-! ### setReg: `V[x] <- b` (R10) -/

@[simp] theorem State.setReg_mem (s : State) (x : RegId) (b : Byte) : (s.setReg x b).mem = s.mem := rfl
@[simp] theorem State.setReg_v (s : State) (x : RegId) (b : Byte) : (s.setReg x b).v = s.v.set x.toNat b x.isLt := rfl
@[simp] theorem State.setReg_i (s : State) (x : RegId) (b : Byte) : (s.setReg x b).i = s.i := rfl
@[simp] theorem State.setReg_pc (s : State) (x : RegId) (b : Byte) : (s.setReg x b).pc = s.pc := rfl
@[simp] theorem State.setReg_sp (s : State) (x : RegId) (b : Byte) : (s.setReg x b).sp = s.sp := rfl
@[simp] theorem State.setReg_stack (s : State) (x : RegId) (b : Byte) : (s.setReg x b).stack = s.stack := rfl
@[simp] theorem State.setReg_dt (s : State) (x : RegId) (b : Byte) : (s.setReg x b).dt = s.dt := rfl
@[simp] theorem State.setReg_st (s : State) (x : RegId) (b : Byte) : (s.setReg x b).st = s.st := rfl
@[simp] theorem State.setReg_disp (s : State) (x : RegId) (b : Byte) : (s.setReg x b).disp = s.disp := rfl
@[simp] theorem State.setReg_halted (s : State) (x : RegId) (b : Byte) : (s.setReg x b).halted = s.halted := rfl
@[simp] theorem State.setReg_cause (s : State) (x : RegId) (b : Byte) : (s.setReg x b).cause = s.cause := rfl
@[simp] theorem State.setReg_tval (s : State) (x : RegId) (b : Byte) : (s.setReg x b).tval = s.tval := rfl
@[simp] theorem State.setReg_key (s : State) (x : RegId) (b : Byte) : (s.setReg x b).key = s.key := rfl
@[simp] theorem State.setReg_rnd (s : State) (x : RegId) (b : Byte) : (s.setReg x b).rnd = s.rnd := rfl
@[simp] theorem State.setReg_out (s : State) (x : RegId) (b : Byte) : (s.setReg x b).out = s.out := rfl
@[simp] theorem State.setReg_cfg (s : State) (x : RegId) (b : Byte) : (s.setReg x b).cfg = s.cfg := rfl
@[simp] theorem State.setReg_host (s : State) (x : RegId) (b : Byte) : (s.setReg x b).host = s.host := rfl
@[simp] theorem State.setReg_started (s : State) (x : RegId) (b : Byte) : (s.setReg x b).started = s.started := rfl
@[simp] theorem State.setReg_drawn (s : State) (x : RegId) (b : Byte) : (s.setReg x b).drawn = s.drawn := rfl
@[simp] theorem State.setReg_slot (s : State) (x : RegId) (b : Byte) (j : BitVec 4) : (s.setReg x b).slot j = s.slot j := rfl
@[simp] theorem State.setReg_byteAt (s : State) (x : RegId) (b : Byte) (z : Nat) : (s.setReg x b).byteAt z = s.byteAt z := rfl

/-! ### setFlag: `VF <- [c]` (R13) -/

@[simp] theorem State.setFlag_mem (s : State) (c : Bool) : (s.setFlag c).mem = s.mem := rfl
@[simp] theorem State.setFlag_v (s : State) (c : Bool) : (s.setFlag c).v = s.v.set 15 (flagByte c) := rfl
@[simp] theorem State.setFlag_i (s : State) (c : Bool) : (s.setFlag c).i = s.i := rfl
@[simp] theorem State.setFlag_pc (s : State) (c : Bool) : (s.setFlag c).pc = s.pc := rfl
@[simp] theorem State.setFlag_sp (s : State) (c : Bool) : (s.setFlag c).sp = s.sp := rfl
@[simp] theorem State.setFlag_stack (s : State) (c : Bool) : (s.setFlag c).stack = s.stack := rfl
@[simp] theorem State.setFlag_dt (s : State) (c : Bool) : (s.setFlag c).dt = s.dt := rfl
@[simp] theorem State.setFlag_st (s : State) (c : Bool) : (s.setFlag c).st = s.st := rfl
@[simp] theorem State.setFlag_disp (s : State) (c : Bool) : (s.setFlag c).disp = s.disp := rfl
@[simp] theorem State.setFlag_halted (s : State) (c : Bool) : (s.setFlag c).halted = s.halted := rfl
@[simp] theorem State.setFlag_cause (s : State) (c : Bool) : (s.setFlag c).cause = s.cause := rfl
@[simp] theorem State.setFlag_tval (s : State) (c : Bool) : (s.setFlag c).tval = s.tval := rfl
@[simp] theorem State.setFlag_key (s : State) (c : Bool) : (s.setFlag c).key = s.key := rfl
@[simp] theorem State.setFlag_rnd (s : State) (c : Bool) : (s.setFlag c).rnd = s.rnd := rfl
@[simp] theorem State.setFlag_out (s : State) (c : Bool) : (s.setFlag c).out = s.out := rfl
@[simp] theorem State.setFlag_cfg (s : State) (c : Bool) : (s.setFlag c).cfg = s.cfg := rfl
@[simp] theorem State.setFlag_host (s : State) (c : Bool) : (s.setFlag c).host = s.host := rfl
@[simp] theorem State.setFlag_started (s : State) (c : Bool) : (s.setFlag c).started = s.started := rfl
@[simp] theorem State.setFlag_drawn (s : State) (c : Bool) : (s.setFlag c).drawn = s.drawn := rfl
@[simp] theorem State.setFlag_slot (s : State) (c : Bool) (j : BitVec 4) : (s.setFlag c).slot j = s.slot j := rfl
@[simp] theorem State.setFlag_byteAt (s : State) (c : Bool) (z : Nat) : (s.setFlag c).byteAt z = s.byteAt z := rfl

/-! ### setSlot: `stack[k] <- w` (R18) -/

@[simp] theorem State.setSlot_mem (s : State) (k : BitVec 4) (w : Word) : (s.setSlot k w).mem = s.mem := rfl
@[simp] theorem State.setSlot_v (s : State) (k : BitVec 4) (w : Word) : (s.setSlot k w).v = s.v := rfl
@[simp] theorem State.setSlot_i (s : State) (k : BitVec 4) (w : Word) : (s.setSlot k w).i = s.i := rfl
@[simp] theorem State.setSlot_pc (s : State) (k : BitVec 4) (w : Word) : (s.setSlot k w).pc = s.pc := rfl
@[simp] theorem State.setSlot_sp (s : State) (k : BitVec 4) (w : Word) : (s.setSlot k w).sp = s.sp := rfl
@[simp] theorem State.setSlot_stack (s : State) (k : BitVec 4) (w : Word) :
    (s.setSlot k w).stack = s.stack.set k.toNat w k.isLt := rfl
@[simp] theorem State.setSlot_dt (s : State) (k : BitVec 4) (w : Word) : (s.setSlot k w).dt = s.dt := rfl
@[simp] theorem State.setSlot_st (s : State) (k : BitVec 4) (w : Word) : (s.setSlot k w).st = s.st := rfl
@[simp] theorem State.setSlot_disp (s : State) (k : BitVec 4) (w : Word) : (s.setSlot k w).disp = s.disp := rfl
@[simp] theorem State.setSlot_halted (s : State) (k : BitVec 4) (w : Word) : (s.setSlot k w).halted = s.halted := rfl
@[simp] theorem State.setSlot_cause (s : State) (k : BitVec 4) (w : Word) : (s.setSlot k w).cause = s.cause := rfl
@[simp] theorem State.setSlot_tval (s : State) (k : BitVec 4) (w : Word) : (s.setSlot k w).tval = s.tval := rfl
@[simp] theorem State.setSlot_key (s : State) (k : BitVec 4) (w : Word) : (s.setSlot k w).key = s.key := rfl
@[simp] theorem State.setSlot_rnd (s : State) (k : BitVec 4) (w : Word) : (s.setSlot k w).rnd = s.rnd := rfl
@[simp] theorem State.setSlot_out (s : State) (k : BitVec 4) (w : Word) : (s.setSlot k w).out = s.out := rfl
@[simp] theorem State.setSlot_cfg (s : State) (k : BitVec 4) (w : Word) : (s.setSlot k w).cfg = s.cfg := rfl
@[simp] theorem State.setSlot_host (s : State) (k : BitVec 4) (w : Word) : (s.setSlot k w).host = s.host := rfl
@[simp] theorem State.setSlot_started (s : State) (k : BitVec 4) (w : Word) :
    (s.setSlot k w).started = s.started := rfl
@[simp] theorem State.setSlot_drawn (s : State) (k : BitVec 4) (w : Word) : (s.setSlot k w).drawn = s.drawn := rfl
@[simp] theorem State.setSlot_reg (s : State) (k : BitVec 4) (w : Word) (y : RegId) : (s.setSlot k w).reg y = s.reg y := rfl
@[simp] theorem State.setSlot_byteAt (s : State) (k : BitVec 4) (w : Word) (z : Nat) : (s.setSlot k w).byteAt z = s.byteAt z := rfl

/-! ### setIndex: `I <- w` (R14) -/

@[simp] theorem State.setIndex_mem (s : State) (w : Word) : (s.setIndex w).mem = s.mem := rfl
@[simp] theorem State.setIndex_v (s : State) (w : Word) : (s.setIndex w).v = s.v := rfl
@[simp] theorem State.setIndex_i (s : State) (w : Word) : (s.setIndex w).i = w := rfl
@[simp] theorem State.setIndex_pc (s : State) (w : Word) : (s.setIndex w).pc = s.pc := rfl
@[simp] theorem State.setIndex_sp (s : State) (w : Word) : (s.setIndex w).sp = s.sp := rfl
@[simp] theorem State.setIndex_stack (s : State) (w : Word) : (s.setIndex w).stack = s.stack := rfl
@[simp] theorem State.setIndex_dt (s : State) (w : Word) : (s.setIndex w).dt = s.dt := rfl
@[simp] theorem State.setIndex_st (s : State) (w : Word) : (s.setIndex w).st = s.st := rfl
@[simp] theorem State.setIndex_disp (s : State) (w : Word) : (s.setIndex w).disp = s.disp := rfl
@[simp] theorem State.setIndex_halted (s : State) (w : Word) : (s.setIndex w).halted = s.halted := rfl
@[simp] theorem State.setIndex_cause (s : State) (w : Word) : (s.setIndex w).cause = s.cause := rfl
@[simp] theorem State.setIndex_tval (s : State) (w : Word) : (s.setIndex w).tval = s.tval := rfl
@[simp] theorem State.setIndex_key (s : State) (w : Word) : (s.setIndex w).key = s.key := rfl
@[simp] theorem State.setIndex_rnd (s : State) (w : Word) : (s.setIndex w).rnd = s.rnd := rfl
@[simp] theorem State.setIndex_out (s : State) (w : Word) : (s.setIndex w).out = s.out := rfl
@[simp] theorem State.setIndex_cfg (s : State) (w : Word) : (s.setIndex w).cfg = s.cfg := rfl
@[simp] theorem State.setIndex_host (s : State) (w : Word) : (s.setIndex w).host = s.host := rfl
@[simp] theorem State.setIndex_started (s : State) (w : Word) : (s.setIndex w).started = s.started := rfl
@[simp] theorem State.setIndex_drawn (s : State) (w : Word) : (s.setIndex w).drawn = s.drawn := rfl
@[simp] theorem State.setIndex_reg (s : State) (w : Word) (y : RegId) : (s.setIndex w).reg y = s.reg y := rfl
@[simp] theorem State.setIndex_slot (s : State) (w : Word) (j : BitVec 4) : (s.setIndex w).slot j = s.slot j := rfl
@[simp] theorem State.setIndex_byteAt (s : State) (w : Word) (z : Nat) : (s.setIndex w).byteAt z = s.byteAt z := rfl

/-! ### jump: `pc <- w` (R90) -/

@[simp] theorem State.jump_mem (s : State) (w : Word) : (s.jump w).mem = s.mem := rfl
@[simp] theorem State.jump_v (s : State) (w : Word) : (s.jump w).v = s.v := rfl
@[simp] theorem State.jump_i (s : State) (w : Word) : (s.jump w).i = s.i := rfl
@[simp] theorem State.jump_pc (s : State) (w : Word) : (s.jump w).pc = w := rfl
@[simp] theorem State.jump_sp (s : State) (w : Word) : (s.jump w).sp = s.sp := rfl
@[simp] theorem State.jump_stack (s : State) (w : Word) : (s.jump w).stack = s.stack := rfl
@[simp] theorem State.jump_dt (s : State) (w : Word) : (s.jump w).dt = s.dt := rfl
@[simp] theorem State.jump_st (s : State) (w : Word) : (s.jump w).st = s.st := rfl
@[simp] theorem State.jump_disp (s : State) (w : Word) : (s.jump w).disp = s.disp := rfl
@[simp] theorem State.jump_halted (s : State) (w : Word) : (s.jump w).halted = s.halted := rfl
@[simp] theorem State.jump_cause (s : State) (w : Word) : (s.jump w).cause = s.cause := rfl
@[simp] theorem State.jump_tval (s : State) (w : Word) : (s.jump w).tval = s.tval := rfl
@[simp] theorem State.jump_key (s : State) (w : Word) : (s.jump w).key = s.key := rfl
@[simp] theorem State.jump_rnd (s : State) (w : Word) : (s.jump w).rnd = s.rnd := rfl
@[simp] theorem State.jump_out (s : State) (w : Word) : (s.jump w).out = s.out := rfl
@[simp] theorem State.jump_cfg (s : State) (w : Word) : (s.jump w).cfg = s.cfg := rfl
@[simp] theorem State.jump_host (s : State) (w : Word) : (s.jump w).host = s.host := rfl
@[simp] theorem State.jump_started (s : State) (w : Word) : (s.jump w).started = s.started := rfl
@[simp] theorem State.jump_drawn (s : State) (w : Word) : (s.jump w).drawn = s.drawn := rfl
@[simp] theorem State.jump_reg (s : State) (w : Word) (y : RegId) : (s.jump w).reg y = s.reg y := rfl
@[simp] theorem State.jump_slot (s : State) (w : Word) (j : BitVec 4) : (s.jump w).slot j = s.slot j := rfl
@[simp] theorem State.jump_byteAt (s : State) (w : Word) (z : Nat) : (s.jump w).byteAt z = s.byteAt z := rfl

/-! ### advance: `pc <- pc + 2` (R15) -/

@[simp] theorem State.advance_mem (s : State) : (s.advance).mem = s.mem := rfl
@[simp] theorem State.advance_v (s : State) : (s.advance).v = s.v := rfl
@[simp] theorem State.advance_i (s : State) : (s.advance).i = s.i := rfl
@[simp] theorem State.advance_pc (s : State) : (s.advance).pc = s.pc + 2#16 := rfl
@[simp] theorem State.advance_sp (s : State) : (s.advance).sp = s.sp := rfl
@[simp] theorem State.advance_stack (s : State) : (s.advance).stack = s.stack := rfl
@[simp] theorem State.advance_dt (s : State) : (s.advance).dt = s.dt := rfl
@[simp] theorem State.advance_st (s : State) : (s.advance).st = s.st := rfl
@[simp] theorem State.advance_disp (s : State) : (s.advance).disp = s.disp := rfl
@[simp] theorem State.advance_halted (s : State) : (s.advance).halted = s.halted := rfl
@[simp] theorem State.advance_cause (s : State) : (s.advance).cause = s.cause := rfl
@[simp] theorem State.advance_tval (s : State) : (s.advance).tval = s.tval := rfl
@[simp] theorem State.advance_key (s : State) : (s.advance).key = s.key := rfl
@[simp] theorem State.advance_rnd (s : State) : (s.advance).rnd = s.rnd := rfl
@[simp] theorem State.advance_out (s : State) : (s.advance).out = s.out := rfl
@[simp] theorem State.advance_cfg (s : State) : (s.advance).cfg = s.cfg := rfl
@[simp] theorem State.advance_host (s : State) : (s.advance).host = s.host := rfl
@[simp] theorem State.advance_started (s : State) : (s.advance).started = s.started := rfl
@[simp] theorem State.advance_drawn (s : State) : (s.advance).drawn = s.drawn := rfl
@[simp] theorem State.advance_reg (s : State) (y : RegId) : (s.advance).reg y = s.reg y := rfl
@[simp] theorem State.advance_slot (s : State) (j : BitVec 4) : (s.advance).slot j = s.slot j := rfl
@[simp] theorem State.advance_byteAt (s : State) (z : Nat) : (s.advance).byteAt z = s.byteAt z := rfl

/-! ### skipIf: a skip (R90) -/

@[simp] theorem State.skipIf_mem (s : State) (c : Bool) : (s.skipIf c).mem = s.mem := rfl
@[simp] theorem State.skipIf_v (s : State) (c : Bool) : (s.skipIf c).v = s.v := rfl
@[simp] theorem State.skipIf_i (s : State) (c : Bool) : (s.skipIf c).i = s.i := rfl
@[simp] theorem State.skipIf_pc (s : State) (c : Bool) : (s.skipIf c).pc = s.pc + (if c then 4#16 else 2#16) := rfl
@[simp] theorem State.skipIf_sp (s : State) (c : Bool) : (s.skipIf c).sp = s.sp := rfl
@[simp] theorem State.skipIf_stack (s : State) (c : Bool) : (s.skipIf c).stack = s.stack := rfl
@[simp] theorem State.skipIf_dt (s : State) (c : Bool) : (s.skipIf c).dt = s.dt := rfl
@[simp] theorem State.skipIf_st (s : State) (c : Bool) : (s.skipIf c).st = s.st := rfl
@[simp] theorem State.skipIf_disp (s : State) (c : Bool) : (s.skipIf c).disp = s.disp := rfl
@[simp] theorem State.skipIf_halted (s : State) (c : Bool) : (s.skipIf c).halted = s.halted := rfl
@[simp] theorem State.skipIf_cause (s : State) (c : Bool) : (s.skipIf c).cause = s.cause := rfl
@[simp] theorem State.skipIf_tval (s : State) (c : Bool) : (s.skipIf c).tval = s.tval := rfl
@[simp] theorem State.skipIf_key (s : State) (c : Bool) : (s.skipIf c).key = s.key := rfl
@[simp] theorem State.skipIf_rnd (s : State) (c : Bool) : (s.skipIf c).rnd = s.rnd := rfl
@[simp] theorem State.skipIf_out (s : State) (c : Bool) : (s.skipIf c).out = s.out := rfl
@[simp] theorem State.skipIf_cfg (s : State) (c : Bool) : (s.skipIf c).cfg = s.cfg := rfl
@[simp] theorem State.skipIf_host (s : State) (c : Bool) : (s.skipIf c).host = s.host := rfl
@[simp] theorem State.skipIf_started (s : State) (c : Bool) : (s.skipIf c).started = s.started := rfl
@[simp] theorem State.skipIf_drawn (s : State) (c : Bool) : (s.skipIf c).drawn = s.drawn := rfl
@[simp] theorem State.skipIf_reg (s : State) (c : Bool) (y : RegId) : (s.skipIf c).reg y = s.reg y := rfl
@[simp] theorem State.skipIf_slot (s : State) (c : Bool) (j : BitVec 4) : (s.skipIf c).slot j = s.slot j := rfl
@[simp] theorem State.skipIf_byteAt (s : State) (c : Bool) (z : Nat) : (s.skipIf c).byteAt z = s.byteAt z := rfl

/-! ### storeBytes: bytes stored (R43) -/

@[simp] theorem State.storeBytes_mem (s : State) (a : Nat) (bs : List Byte) :
    (s.storeBytes a bs).mem = s.mem.storeBytes a bs := rfl
@[simp] theorem State.storeBytes_v (s : State) (a : Nat) (bs : List Byte) : (s.storeBytes a bs).v = s.v := rfl
@[simp] theorem State.storeBytes_i (s : State) (a : Nat) (bs : List Byte) : (s.storeBytes a bs).i = s.i := rfl
@[simp] theorem State.storeBytes_pc (s : State) (a : Nat) (bs : List Byte) : (s.storeBytes a bs).pc = s.pc := rfl
@[simp] theorem State.storeBytes_sp (s : State) (a : Nat) (bs : List Byte) : (s.storeBytes a bs).sp = s.sp := rfl
@[simp] theorem State.storeBytes_stack (s : State) (a : Nat) (bs : List Byte) :
    (s.storeBytes a bs).stack = s.stack := rfl
@[simp] theorem State.storeBytes_dt (s : State) (a : Nat) (bs : List Byte) : (s.storeBytes a bs).dt = s.dt := rfl
@[simp] theorem State.storeBytes_st (s : State) (a : Nat) (bs : List Byte) : (s.storeBytes a bs).st = s.st := rfl
@[simp] theorem State.storeBytes_disp (s : State) (a : Nat) (bs : List Byte) :
    (s.storeBytes a bs).disp = s.disp := rfl
@[simp] theorem State.storeBytes_halted (s : State) (a : Nat) (bs : List Byte) :
    (s.storeBytes a bs).halted = s.halted := rfl
@[simp] theorem State.storeBytes_cause (s : State) (a : Nat) (bs : List Byte) :
    (s.storeBytes a bs).cause = s.cause := rfl
@[simp] theorem State.storeBytes_tval (s : State) (a : Nat) (bs : List Byte) :
    (s.storeBytes a bs).tval = s.tval := rfl
@[simp] theorem State.storeBytes_key (s : State) (a : Nat) (bs : List Byte) : (s.storeBytes a bs).key = s.key := rfl
@[simp] theorem State.storeBytes_rnd (s : State) (a : Nat) (bs : List Byte) : (s.storeBytes a bs).rnd = s.rnd := rfl
@[simp] theorem State.storeBytes_out (s : State) (a : Nat) (bs : List Byte) : (s.storeBytes a bs).out = s.out := rfl
@[simp] theorem State.storeBytes_cfg (s : State) (a : Nat) (bs : List Byte) : (s.storeBytes a bs).cfg = s.cfg := rfl
@[simp] theorem State.storeBytes_host (s : State) (a : Nat) (bs : List Byte) :
    (s.storeBytes a bs).host = s.host := rfl
@[simp] theorem State.storeBytes_started (s : State) (a : Nat) (bs : List Byte) :
    (s.storeBytes a bs).started = s.started := rfl
@[simp] theorem State.storeBytes_drawn (s : State) (a : Nat) (bs : List Byte) :
    (s.storeBytes a bs).drawn = s.drawn := rfl
@[simp] theorem State.storeBytes_reg (s : State) (a : Nat) (bs : List Byte) (y : RegId) : (s.storeBytes a bs).reg y = s.reg y := rfl
@[simp] theorem State.storeBytes_slot (s : State) (a : Nat) (bs : List Byte) (j : BitVec 4) : (s.storeBytes a bs).slot j = s.slot j := rfl

/-! ### writeResult: result and PC (R101) -/

@[simp] theorem State.writeResult_mem (s : State) (x : RegId) (r : Byte) : (s.writeResult x r).mem = s.mem := rfl
@[simp] theorem State.writeResult_v (s : State) (x : RegId) (r : Byte) :
    (s.writeResult x r).v = s.v.set x.toNat r x.isLt := rfl
@[simp] theorem State.writeResult_i (s : State) (x : RegId) (r : Byte) : (s.writeResult x r).i = s.i := rfl
@[simp] theorem State.writeResult_pc (s : State) (x : RegId) (r : Byte) : (s.writeResult x r).pc = s.pc + 2#16 := rfl
@[simp] theorem State.writeResult_sp (s : State) (x : RegId) (r : Byte) : (s.writeResult x r).sp = s.sp := rfl
@[simp] theorem State.writeResult_stack (s : State) (x : RegId) (r : Byte) :
    (s.writeResult x r).stack = s.stack := rfl
@[simp] theorem State.writeResult_dt (s : State) (x : RegId) (r : Byte) : (s.writeResult x r).dt = s.dt := rfl
@[simp] theorem State.writeResult_st (s : State) (x : RegId) (r : Byte) : (s.writeResult x r).st = s.st := rfl
@[simp] theorem State.writeResult_disp (s : State) (x : RegId) (r : Byte) : (s.writeResult x r).disp = s.disp := rfl
@[simp] theorem State.writeResult_halted (s : State) (x : RegId) (r : Byte) :
    (s.writeResult x r).halted = s.halted := rfl
@[simp] theorem State.writeResult_cause (s : State) (x : RegId) (r : Byte) :
    (s.writeResult x r).cause = s.cause := rfl
@[simp] theorem State.writeResult_tval (s : State) (x : RegId) (r : Byte) : (s.writeResult x r).tval = s.tval := rfl
@[simp] theorem State.writeResult_key (s : State) (x : RegId) (r : Byte) : (s.writeResult x r).key = s.key := rfl
@[simp] theorem State.writeResult_rnd (s : State) (x : RegId) (r : Byte) : (s.writeResult x r).rnd = s.rnd := rfl
@[simp] theorem State.writeResult_out (s : State) (x : RegId) (r : Byte) : (s.writeResult x r).out = s.out := rfl
@[simp] theorem State.writeResult_cfg (s : State) (x : RegId) (r : Byte) : (s.writeResult x r).cfg = s.cfg := rfl
@[simp] theorem State.writeResult_host (s : State) (x : RegId) (r : Byte) : (s.writeResult x r).host = s.host := rfl
@[simp] theorem State.writeResult_started (s : State) (x : RegId) (r : Byte) :
    (s.writeResult x r).started = s.started := rfl
@[simp] theorem State.writeResult_drawn (s : State) (x : RegId) (r : Byte) :
    (s.writeResult x r).drawn = s.drawn := rfl
@[simp] theorem State.writeResult_slot (s : State) (x : RegId) (r : Byte) (j : BitVec 4) : (s.writeResult x r).slot j = s.slot j := rfl
@[simp] theorem State.writeResult_byteAt (s : State) (x : RegId) (r : Byte) (z : Nat) : (s.writeResult x r).byteAt z = s.byteAt z := rfl

/-! ### writeResultFlag: result, flag and PC (R100) -/

@[simp] theorem State.writeResultFlag_mem (s : State) (x : RegId) (r : Byte) (c : Bool) :
    (s.writeResultFlag x r c).mem = s.mem := rfl
@[simp] theorem State.writeResultFlag_v (s : State) (x : RegId) (r : Byte) (c : Bool) :
    (s.writeResultFlag x r c).v = (s.v.set x.toNat r x.isLt).set 15 (flagByte c) := rfl
@[simp] theorem State.writeResultFlag_i (s : State) (x : RegId) (r : Byte) (c : Bool) :
    (s.writeResultFlag x r c).i = s.i := rfl
@[simp] theorem State.writeResultFlag_pc (s : State) (x : RegId) (r : Byte) (c : Bool) :
    (s.writeResultFlag x r c).pc = s.pc + 2#16 := rfl
@[simp] theorem State.writeResultFlag_sp (s : State) (x : RegId) (r : Byte) (c : Bool) :
    (s.writeResultFlag x r c).sp = s.sp := rfl
@[simp] theorem State.writeResultFlag_stack (s : State) (x : RegId) (r : Byte) (c : Bool) :
    (s.writeResultFlag x r c).stack = s.stack := rfl
@[simp] theorem State.writeResultFlag_dt (s : State) (x : RegId) (r : Byte) (c : Bool) :
    (s.writeResultFlag x r c).dt = s.dt := rfl
@[simp] theorem State.writeResultFlag_st (s : State) (x : RegId) (r : Byte) (c : Bool) :
    (s.writeResultFlag x r c).st = s.st := rfl
@[simp] theorem State.writeResultFlag_disp (s : State) (x : RegId) (r : Byte) (c : Bool) :
    (s.writeResultFlag x r c).disp = s.disp := rfl
@[simp] theorem State.writeResultFlag_halted (s : State) (x : RegId) (r : Byte) (c : Bool) :
    (s.writeResultFlag x r c).halted = s.halted := rfl
@[simp] theorem State.writeResultFlag_cause (s : State) (x : RegId) (r : Byte) (c : Bool) :
    (s.writeResultFlag x r c).cause = s.cause := rfl
@[simp] theorem State.writeResultFlag_tval (s : State) (x : RegId) (r : Byte) (c : Bool) :
    (s.writeResultFlag x r c).tval = s.tval := rfl
@[simp] theorem State.writeResultFlag_key (s : State) (x : RegId) (r : Byte) (c : Bool) :
    (s.writeResultFlag x r c).key = s.key := rfl
@[simp] theorem State.writeResultFlag_rnd (s : State) (x : RegId) (r : Byte) (c : Bool) :
    (s.writeResultFlag x r c).rnd = s.rnd := rfl
@[simp] theorem State.writeResultFlag_out (s : State) (x : RegId) (r : Byte) (c : Bool) :
    (s.writeResultFlag x r c).out = s.out := rfl
@[simp] theorem State.writeResultFlag_cfg (s : State) (x : RegId) (r : Byte) (c : Bool) :
    (s.writeResultFlag x r c).cfg = s.cfg := rfl
@[simp] theorem State.writeResultFlag_host (s : State) (x : RegId) (r : Byte) (c : Bool) :
    (s.writeResultFlag x r c).host = s.host := rfl
@[simp] theorem State.writeResultFlag_started (s : State) (x : RegId) (r : Byte) (c : Bool) :
    (s.writeResultFlag x r c).started = s.started := rfl
@[simp] theorem State.writeResultFlag_drawn (s : State) (x : RegId) (r : Byte) (c : Bool) :
    (s.writeResultFlag x r c).drawn = s.drawn := rfl
@[simp] theorem State.writeResultFlag_slot (s : State) (x : RegId) (r : Byte) (c : Bool) (j : BitVec 4) : (s.writeResultFlag x r c).slot j = s.slot j := rfl
@[simp] theorem State.writeResultFlag_byteAt (s : State) (x : RegId) (r : Byte) (c : Bool) (z : Nat) : (s.writeResultFlag x r c).byteAt z = s.byteAt z := rfl

/-! ### enterFault: fault entry (R155) -/

@[simp] theorem State.enterFault_mem (s : State) (f : FatalFault) : (s.enterFault f).mem = s.mem := rfl
@[simp] theorem State.enterFault_v (s : State) (f : FatalFault) : (s.enterFault f).v = s.v := rfl
@[simp] theorem State.enterFault_i (s : State) (f : FatalFault) : (s.enterFault f).i = s.i := rfl
@[simp] theorem State.enterFault_pc (s : State) (f : FatalFault) : (s.enterFault f).pc = s.pc := rfl
@[simp] theorem State.enterFault_sp (s : State) (f : FatalFault) : (s.enterFault f).sp = s.sp := rfl
@[simp] theorem State.enterFault_stack (s : State) (f : FatalFault) : (s.enterFault f).stack = s.stack := rfl
@[simp] theorem State.enterFault_dt (s : State) (f : FatalFault) : (s.enterFault f).dt = s.dt := rfl
@[simp] theorem State.enterFault_st (s : State) (f : FatalFault) : (s.enterFault f).st = s.st := rfl
@[simp] theorem State.enterFault_disp (s : State) (f : FatalFault) : (s.enterFault f).disp = s.disp := rfl
@[simp] theorem State.enterFault_halted (s : State) (f : FatalFault) : (s.enterFault f).halted = true := rfl
@[simp] theorem State.enterFault_cause (s : State) (f : FatalFault) : (s.enterFault f).cause = f.code := rfl
@[simp] theorem State.enterFault_tval (s : State) (f : FatalFault) : (s.enterFault f).tval = f.value := rfl
@[simp] theorem State.enterFault_key (s : State) (f : FatalFault) : (s.enterFault f).key = s.key := rfl
@[simp] theorem State.enterFault_rnd (s : State) (f : FatalFault) : (s.enterFault f).rnd = s.rnd := rfl
@[simp] theorem State.enterFault_out (s : State) (f : FatalFault) :
    (s.enterFault f).out = { soundActive := false, redraw := false, report := f.code, reportInfo := f.value } := rfl
@[simp] theorem State.enterFault_cfg (s : State) (f : FatalFault) : (s.enterFault f).cfg = s.cfg := rfl
@[simp] theorem State.enterFault_host (s : State) (f : FatalFault) : (s.enterFault f).host = s.host := rfl
@[simp] theorem State.enterFault_started (s : State) (f : FatalFault) : (s.enterFault f).started = s.started := rfl
@[simp] theorem State.enterFault_drawn (s : State) (f : FatalFault) : (s.enterFault f).drawn = s.drawn := rfl
@[simp] theorem State.enterFault_reg (s : State) (f : FatalFault) (y : RegId) : (s.enterFault f).reg y = s.reg y := rfl
@[simp] theorem State.enterFault_slot (s : State) (f : FatalFault) (j : BitVec 4) : (s.enterFault f).slot j = s.slot j := rfl
@[simp] theorem State.enterFault_byteAt (s : State) (f : FatalFault) (z : Nat) : (s.enterFault f).byteAt z = s.byteAt z := rfl

/-! ### reportDecodeFailure: the decode failure (R152) -/

@[simp] theorem State.reportDecodeFailure_mem (s : State) (w : Word) : (s.reportDecodeFailure w).mem = s.mem := rfl
@[simp] theorem State.reportDecodeFailure_v (s : State) (w : Word) : (s.reportDecodeFailure w).v = s.v := rfl
@[simp] theorem State.reportDecodeFailure_i (s : State) (w : Word) : (s.reportDecodeFailure w).i = s.i := rfl
@[simp] theorem State.reportDecodeFailure_pc (s : State) (w : Word) : (s.reportDecodeFailure w).pc = s.pc := rfl
@[simp] theorem State.reportDecodeFailure_sp (s : State) (w : Word) : (s.reportDecodeFailure w).sp = s.sp := rfl
@[simp] theorem State.reportDecodeFailure_stack (s : State) (w : Word) :
    (s.reportDecodeFailure w).stack = s.stack := rfl
@[simp] theorem State.reportDecodeFailure_dt (s : State) (w : Word) : (s.reportDecodeFailure w).dt = s.dt := rfl
@[simp] theorem State.reportDecodeFailure_st (s : State) (w : Word) : (s.reportDecodeFailure w).st = s.st := rfl
@[simp] theorem State.reportDecodeFailure_disp (s : State) (w : Word) : (s.reportDecodeFailure w).disp = s.disp := rfl
@[simp] theorem State.reportDecodeFailure_halted (s : State) (w : Word) :
    (s.reportDecodeFailure w).halted = s.halted := rfl
@[simp] theorem State.reportDecodeFailure_cause (s : State) (w : Word) :
    (s.reportDecodeFailure w).cause = s.cause := rfl
@[simp] theorem State.reportDecodeFailure_tval (s : State) (w : Word) : (s.reportDecodeFailure w).tval = s.tval := rfl
@[simp] theorem State.reportDecodeFailure_key (s : State) (w : Word) : (s.reportDecodeFailure w).key = s.key := rfl
@[simp] theorem State.reportDecodeFailure_rnd (s : State) (w : Word) : (s.reportDecodeFailure w).rnd = s.rnd := rfl
@[simp] theorem State.reportDecodeFailure_out (s : State) (w : Word) :
    (s.reportDecodeFailure w).out = { s.out with report := 7#3, reportInfo := w } := rfl
@[simp] theorem State.reportDecodeFailure_cfg (s : State) (w : Word) : (s.reportDecodeFailure w).cfg = s.cfg := rfl
@[simp] theorem State.reportDecodeFailure_host (s : State) (w : Word) : (s.reportDecodeFailure w).host = s.host := rfl
@[simp] theorem State.reportDecodeFailure_started (s : State) (w : Word) :
    (s.reportDecodeFailure w).started = s.started := rfl
@[simp] theorem State.reportDecodeFailure_drawn (s : State) (w : Word) :
    (s.reportDecodeFailure w).drawn = s.drawn := rfl
@[simp] theorem State.reportDecodeFailure_reg (s : State) (w : Word) (y : RegId) : (s.reportDecodeFailure w).reg y = s.reg y := rfl
@[simp] theorem State.reportDecodeFailure_slot (s : State) (w : Word) (j : BitVec 4) : (s.reportDecodeFailure w).slot j = s.slot j := rfl
@[simp] theorem State.reportDecodeFailure_byteAt (s : State) (w : Word) (z : Nat) : (s.reportDecodeFailure w).byteAt z = s.byteAt z := rfl

/-! ### beginCycle: the start of a cycle (R80, R82) -/

@[simp] theorem State.beginCycle_mem (s : State) (k : BitVec 16) (r : Byte) : (s.beginCycle k r).mem = s.mem := rfl
@[simp] theorem State.beginCycle_v (s : State) (k : BitVec 16) (r : Byte) : (s.beginCycle k r).v = s.v := rfl
@[simp] theorem State.beginCycle_i (s : State) (k : BitVec 16) (r : Byte) : (s.beginCycle k r).i = s.i := rfl
@[simp] theorem State.beginCycle_pc (s : State) (k : BitVec 16) (r : Byte) : (s.beginCycle k r).pc = s.pc := rfl
@[simp] theorem State.beginCycle_sp (s : State) (k : BitVec 16) (r : Byte) : (s.beginCycle k r).sp = s.sp := rfl
@[simp] theorem State.beginCycle_stack (s : State) (k : BitVec 16) (r : Byte) :
    (s.beginCycle k r).stack = s.stack := rfl
@[simp] theorem State.beginCycle_dt (s : State) (k : BitVec 16) (r : Byte) : (s.beginCycle k r).dt = s.dt := rfl
@[simp] theorem State.beginCycle_st (s : State) (k : BitVec 16) (r : Byte) : (s.beginCycle k r).st = s.st := rfl
@[simp] theorem State.beginCycle_disp (s : State) (k : BitVec 16) (r : Byte) : (s.beginCycle k r).disp = s.disp := rfl
@[simp] theorem State.beginCycle_halted (s : State) (k : BitVec 16) (r : Byte) :
    (s.beginCycle k r).halted = s.halted := rfl
@[simp] theorem State.beginCycle_cause (s : State) (k : BitVec 16) (r : Byte) :
    (s.beginCycle k r).cause = s.cause := rfl
@[simp] theorem State.beginCycle_tval (s : State) (k : BitVec 16) (r : Byte) : (s.beginCycle k r).tval = s.tval := rfl
@[simp] theorem State.beginCycle_key (s : State) (k : BitVec 16) (r : Byte) : (s.beginCycle k r).key = k := rfl
@[simp] theorem State.beginCycle_rnd (s : State) (k : BitVec 16) (r : Byte) : (s.beginCycle k r).rnd = r := rfl
@[simp] theorem State.beginCycle_out (s : State) (k : BitVec 16) (r : Byte) :
    (s.beginCycle k r).out = Outputs.none := rfl
@[simp] theorem State.beginCycle_cfg (s : State) (k : BitVec 16) (r : Byte) : (s.beginCycle k r).cfg = s.cfg := rfl
@[simp] theorem State.beginCycle_host (s : State) (k : BitVec 16) (r : Byte) :
    (s.beginCycle k r).host = s.host.tail := rfl
@[simp] theorem State.beginCycle_started (s : State) (k : BitVec 16) (r : Byte) :
    (s.beginCycle k r).started = true := rfl
@[simp] theorem State.beginCycle_drawn (s : State) (k : BitVec 16) (r : Byte) :
    (s.beginCycle k r).drawn = s.drawn + 1 := rfl
@[simp] theorem State.beginCycle_reg (s : State) (k : BitVec 16) (r : Byte) (y : RegId) : (s.beginCycle k r).reg y = s.reg y := rfl
@[simp] theorem State.beginCycle_slot (s : State) (k : BitVec 16) (r : Byte) (j : BitVec 4) : (s.beginCycle k r).slot j = s.slot j := rfl
@[simp] theorem State.beginCycle_byteAt (s : State) (k : BitVec 16) (r : Byte) (z : Nat) : (s.beginCycle k r).byteAt z = s.byteAt z := rfl

/-! ### tick: the tick (R86) -/

@[simp] theorem State.tick_mem (s : State) : (s.tick).mem = s.mem := rfl
@[simp] theorem State.tick_v (s : State) : (s.tick).v = s.v := rfl
@[simp] theorem State.tick_i (s : State) : (s.tick).i = s.i := rfl
@[simp] theorem State.tick_pc (s : State) : (s.tick).pc = s.pc := rfl
@[simp] theorem State.tick_sp (s : State) : (s.tick).sp = s.sp := rfl
@[simp] theorem State.tick_stack (s : State) : (s.tick).stack = s.stack := rfl
@[simp] theorem State.tick_dt (s : State) : (s.tick).dt = countDown s.dt := rfl
@[simp] theorem State.tick_st (s : State) : (s.tick).st = countDown s.st := rfl
@[simp] theorem State.tick_disp (s : State) : (s.tick).disp = s.disp := rfl
@[simp] theorem State.tick_halted (s : State) : (s.tick).halted = s.halted := rfl
@[simp] theorem State.tick_cause (s : State) : (s.tick).cause = s.cause := rfl
@[simp] theorem State.tick_tval (s : State) : (s.tick).tval = s.tval := rfl
@[simp] theorem State.tick_key (s : State) : (s.tick).key = s.key := rfl
@[simp] theorem State.tick_rnd (s : State) : (s.tick).rnd = s.rnd := rfl
@[simp] theorem State.tick_out (s : State) : (s.tick).out = { s.out with soundActive := decide (s.st ≠ 0#8) } := rfl
@[simp] theorem State.tick_cfg (s : State) : (s.tick).cfg = s.cfg := rfl
@[simp] theorem State.tick_host (s : State) : (s.tick).host = s.host := rfl
@[simp] theorem State.tick_started (s : State) : (s.tick).started = s.started := rfl
@[simp] theorem State.tick_drawn (s : State) : (s.tick).drawn = s.drawn := rfl
@[simp] theorem State.tick_reg (s : State) (y : RegId) : (s.tick).reg y = s.reg y := rfl
@[simp] theorem State.tick_slot (s : State) (j : BitVec 4) : (s.tick).slot j = s.slot j := rfl
@[simp] theorem State.tick_byteAt (s : State) (z : Nat) : (s.tick).byteAt z = s.byteAt z := rfl

/-! ### hostLoad: the load port (R184) -/

@[simp] theorem State.hostLoad_mem (s : State) (a : Addr12) (b : Byte) :
    (s.hostLoad a b).mem = s.mem.write a.toNat b := rfl
@[simp] theorem State.hostLoad_v (s : State) (a : Addr12) (b : Byte) : (s.hostLoad a b).v = s.v := rfl
@[simp] theorem State.hostLoad_i (s : State) (a : Addr12) (b : Byte) : (s.hostLoad a b).i = s.i := rfl
@[simp] theorem State.hostLoad_pc (s : State) (a : Addr12) (b : Byte) : (s.hostLoad a b).pc = s.pc := rfl
@[simp] theorem State.hostLoad_sp (s : State) (a : Addr12) (b : Byte) : (s.hostLoad a b).sp = s.sp := rfl
@[simp] theorem State.hostLoad_stack (s : State) (a : Addr12) (b : Byte) : (s.hostLoad a b).stack = s.stack := rfl
@[simp] theorem State.hostLoad_dt (s : State) (a : Addr12) (b : Byte) : (s.hostLoad a b).dt = s.dt := rfl
@[simp] theorem State.hostLoad_st (s : State) (a : Addr12) (b : Byte) : (s.hostLoad a b).st = s.st := rfl
@[simp] theorem State.hostLoad_disp (s : State) (a : Addr12) (b : Byte) : (s.hostLoad a b).disp = s.disp := rfl
@[simp] theorem State.hostLoad_halted (s : State) (a : Addr12) (b : Byte) : (s.hostLoad a b).halted = s.halted := rfl
@[simp] theorem State.hostLoad_cause (s : State) (a : Addr12) (b : Byte) : (s.hostLoad a b).cause = s.cause := rfl
@[simp] theorem State.hostLoad_tval (s : State) (a : Addr12) (b : Byte) : (s.hostLoad a b).tval = s.tval := rfl
@[simp] theorem State.hostLoad_key (s : State) (a : Addr12) (b : Byte) : (s.hostLoad a b).key = s.key := rfl
@[simp] theorem State.hostLoad_rnd (s : State) (a : Addr12) (b : Byte) : (s.hostLoad a b).rnd = s.rnd := rfl
@[simp] theorem State.hostLoad_out (s : State) (a : Addr12) (b : Byte) : (s.hostLoad a b).out = s.out := rfl
@[simp] theorem State.hostLoad_cfg (s : State) (a : Addr12) (b : Byte) : (s.hostLoad a b).cfg = s.cfg := rfl
@[simp] theorem State.hostLoad_host (s : State) (a : Addr12) (b : Byte) : (s.hostLoad a b).host = s.host.tail := rfl
@[simp] theorem State.hostLoad_started (s : State) (a : Addr12) (b : Byte) :
    (s.hostLoad a b).started = s.started := rfl
@[simp] theorem State.hostLoad_drawn (s : State) (a : Addr12) (b : Byte) : (s.hostLoad a b).drawn = s.drawn := rfl
@[simp] theorem State.hostLoad_reg (s : State) (a : Addr12) (b : Byte) (y : RegId) : (s.hostLoad a b).reg y = s.reg y := rfl
@[simp] theorem State.hostLoad_slot (s : State) (a : Addr12) (b : Byte) (j : BitVec 4) : (s.hostLoad a b).slot j = s.slot j := rfl

/-! ### hostReset: the reset (R181) -/

@[simp] theorem State.hostReset_mem (s : State) : (s.hostReset).mem = resetMemory s.cfg := rfl
@[simp] theorem State.hostReset_v (s : State) : (s.hostReset).v = resetRegs s.cfg s.drawn := rfl
@[simp] theorem State.hostReset_i (s : State) : (s.hostReset).i = resetIndex s.cfg s.drawn := rfl
@[simp] theorem State.hostReset_pc (s : State) : (s.hostReset).pc = progBase := rfl
@[simp] theorem State.hostReset_sp (s : State) : (s.hostReset).sp = 0#4 := rfl
@[simp] theorem State.hostReset_stack (s : State) : (s.hostReset).stack = Vector.replicate 16 0#16 := rfl
@[simp] theorem State.hostReset_dt (s : State) : (s.hostReset).dt = 0#8 := rfl
@[simp] theorem State.hostReset_st (s : State) : (s.hostReset).st = 0#8 := rfl
@[simp] theorem State.hostReset_disp (s : State) : (s.hostReset).disp = Vector.replicate 32 0#64 := rfl
@[simp] theorem State.hostReset_halted (s : State) : (s.hostReset).halted = false := rfl
@[simp] theorem State.hostReset_cause (s : State) : (s.hostReset).cause = 0#3 := rfl
@[simp] theorem State.hostReset_tval (s : State) : (s.hostReset).tval = 0#16 := rfl
@[simp] theorem State.hostReset_key (s : State) : (s.hostReset).key = 0#16 := rfl
@[simp] theorem State.hostReset_rnd (s : State) : (s.hostReset).rnd = 0#8 := rfl
@[simp] theorem State.hostReset_out (s : State) : (s.hostReset).out = Outputs.none := rfl
@[simp] theorem State.hostReset_cfg (s : State) : (s.hostReset).cfg = s.cfg := rfl
@[simp] theorem State.hostReset_host (s : State) : (s.hostReset).host = s.host.tail := rfl
@[simp] theorem State.hostReset_started (s : State) : (s.hostReset).started = false := rfl
@[simp] theorem State.hostReset_drawn (s : State) : (s.hostReset).drawn = s.drawn + 1 := rfl

end Sys2Proof.Machine
end

