-- ==== Sys2Proof/Laws/Ops.lean ====
section
/-! SUPPORT. One lemma for each shared operation that says everything it can do; later proofs cite these and unfold
nothing. -/

namespace Sys2Proof.Machine

/-! ## Registers and the stack -/

theorem State.reg_ofNat (s : State) (k : Nat) (h : k < 16) : s.reg (BitVec.ofNat 4 k) = s.v[k] := by
  simp [State.reg, Nat.mod_eq_of_lt h]

/-- `V[x] <- b` writes `V[x]` and no other register (R10). -/
@[simp] theorem State.reg_setReg (s : State) (x : RegId) (b : Byte) (y : RegId) :
    (s.setReg x b).reg y = if y = x then b else s.reg y := by
  by_cases h : y = x
  · subst h
    simp [State.reg, State.setReg]
  · have hn : x.toNat ≠ y.toNat := fun e => h (BitVec.eq_of_toNat_eq e).symm
    simp [State.reg, State.setReg, h, Vector.getElem_set_ne, hn]

@[simp] theorem State.reg_setFlag (s : State) (c : Bool) (y : RegId) :
    (s.setFlag c).reg y = if y = regVF then flagByte c else s.reg y := State.reg_setReg s regVF (flagByte c) y

/-- A result without a flag (R101 to R103). -/
@[simp] theorem State.reg_writeResult (s : State) (x : RegId) (r : Byte) (y : RegId) :
    (s.writeResult x r).reg y = if y = x then r else s.reg y := State.reg_setReg s x r y

/-- A result, then the flag: at x = 15 the flag stays (R100). -/
@[simp] theorem State.reg_writeResultFlag (s : State) (x : RegId) (r : Byte) (c : Bool) (y : RegId) :
    (s.writeResultFlag x r c).reg y = if y = regVF then flagByte c else if y = x then r else s.reg y := by
  show ((s.setReg x r).setFlag c).reg y = _
  simp

theorem State.writeLogic_unchanged (s : State) (x : RegId) (r : Byte) (h : s.cfg.logicVF = .unchanged) :
    s.writeLogic x r = s.writeResult x r := by simp [State.writeLogic, h]

theorem State.writeLogic_zero (s : State) (x : RegId) (r : Byte) (h : s.cfg.logicVF = .zero) :
    s.writeLogic x r = s.writeResultFlag x r false := by simp [State.writeLogic, h]

/-- `stack[k] <- w` writes slot `k` and no other (R18). -/
@[simp] theorem State.slot_setSlot (s : State) (k : BitVec 4) (w : Word) (j : BitVec 4) :
    (s.setSlot k w).slot j = if j = k then w else s.slot j := by
  by_cases h : j = k
  · subst h
    simp [State.slot, State.setSlot]
  · have hn : k.toNat ≠ j.toNat := fun e => h (BitVec.eq_of_toNat_eq e).symm
    simp [State.slot, State.setSlot, h, Vector.getElem_set_ne, hn]

theorem flagByte_toNat (c : Bool) : (flagByte c).toNat = if c then 1 else 0 := by cases c <;> rfl

/-- `V[0]` to `V[x]`: `x + 1` bytes (R125). -/
@[simp] theorem State.regsUpTo_length (s : State) (x : RegId) : (s.regsUpTo x).length = blockCount x := by
  have := x.isLt
  simp [State.regsUpTo, blockCount]
  omega

theorem State.regsUpTo_getElem (s : State) (x : RegId) (k : Nat) (h : k < (s.regsUpTo x).length) :
    (s.regsUpTo x)[k] = s.reg (BitVec.ofNat 4 k) := by
  have hx := x.isLt
  have hk : k < 16 := by
    rw [State.regsUpTo_length, blockCount] at h
    omega
  rw [State.reg_ofNat s k hk]
  simp [State.regsUpTo]

/-- A block load: register `j` takes byte `j - k` of the bytes, when there is one (R126). -/
theorem loadRegs_getElem (v : Vector Byte 16) (k : Nat) (bs : List Byte) (j : Nat) (hj : j < 16) :
    (loadRegs v k bs)[j] = if k ≤ j then (bs[j - k]?).getD v[j] else v[j] := by
  induction bs generalizing v k with
  | nil => simp [loadRegs]
  | cons b bs ih =>
    rw [loadRegs, ih]
    by_cases h1 : k + 1 ≤ j
    · have h2 : j - k = (j - (k + 1)) + 1 := by omega
      have h3 : k ≠ j := by omega
      rw [if_pos h1, if_pos (by omega), h2, List.getElem?_cons_succ, Vector.getElem_setIfInBounds_ne hj h3]
    · by_cases h2 : j = k
      · subst h2
        simp
      · have h3 : k ≠ j := by omega
        rw [if_neg h1, if_neg (by omega), Vector.getElem_setIfInBounds_ne hj h3]

/-! ## Memory accesses -/

/-- What a store of bytes leaves at each address (R43, R45). -/
theorem State.byteAt_storeBytes (s : State) (a b : Nat) (bs : List Byte) :
    (s.storeBytes a bs).byteAt b = if a ≤ b then (bs[b - a]?).getD (s.byteAt b) else s.byteAt b :=
  read_storeBytes s.mem a b bs

@[simp] theorem State.bytesAt_length (s : State) (a n : Nat) : (s.bytesAt a n).length = n := by simp [State.bytesAt]

@[simp] theorem State.bytesAt_getElem (s : State) (a n k : Nat) (h : k < (s.bytesAt a n).length) :
    (s.bytesAt a n)[k] = s.byteAt (a + k) := by simp [State.bytesAt]

/-- An access is in range when it is of no byte or its last byte is at most 4095 (R44 to R46). -/
theorem rangeFault_eq_none (k : Access) (base : Word) (n : Nat) :
    rangeFault k base n = none ↔ n = 0 ∨ base.toNat + n ≤ 4096 := by
  unfold rangeFault
  constructor
  · intro h
    split at h
    · omega
    · cases k <;> simp at h
  · intro h
    rw [if_pos (by omega)]

/-- `max(base, 4096)` (R154). -/
theorem lowestOutOfRange_toNat (base : Word) : (lowestOutOfRange base).toNat = max base.toNat 4096 := by
  unfold lowestOutOfRange memSize
  split
  · rw [Nat.max_eq_right (by omega)]
    rfl
  · rw [Nat.max_eq_left (by omega)]

theorem rangeFault_read {base : Word} {n : Nat} {f : FatalFault} (h : rangeFault .read base n = some f) :
    n ≠ 0 ∧ 4096 < base.toNat + n ∧ f = .memReadRange (lowestOutOfRange base) := by
  unfold rangeFault at h
  split at h
  · cases h
  · simp only [Option.some.injEq] at h
    exact ⟨by omega, by omega, h.symm⟩

theorem rangeFault_write {base : Word} {n : Nat} {f : FatalFault} (h : rangeFault .write base n = some f) :
    n ≠ 0 ∧ 4096 < base.toNat + n ∧ f = .memWriteRange (lowestOutOfRange base) := by
  unfold rangeFault at h
  split at h
  · cases h
  · simp only [Option.some.injEq] at h
    exact ⟨by omega, by omega, h.symm⟩

theorem rangeFault_of_lt (k : Access) (base : Word) (n : Nat) (hn : n ≠ 0) (h : 4096 < base.toNat + n) :
    rangeFault k base n = some (match k with
      | .fetch => .fetchRange base
      | .read => .memReadRange (lowestOutOfRange base)
      | .write => .memWriteRange (lowestOutOfRange base)) := by
  unfold rangeFault
  rw [if_neg (by omega)]
  cases k <;> rfl

/-- Fetch succeeds exactly when PC is at most 4094 (R83). -/
theorem State.fetch_of_le (s : State) (h : s.pc.toNat ≤ 4094) :
    s.fetch = .ok (wordOfBytes (s.byteAt s.pc.toNat) (s.byteAt (s.pc.toNat + 1))) := by
  unfold State.fetch
  rw [(rangeFault_eq_none .fetch s.pc 2).2 (by omega)]

theorem State.fetch_of_gt (s : State) (h : 4094 < s.pc.toNat) : s.fetch = .error (.fetchRange s.pc) := by
  unfold State.fetch
  rw [rangeFault_of_lt .fetch s.pc 2 (by omega) (by omega)]

/-! ## Timers and keys -/

/-- A counter's decrement as a number, floor at zero (R86). -/
@[simp] theorem countDown_toNat (b : Byte) : (countDown b).toNat = b.toNat - 1 := by
  unfold countDown
  split
  · next h => simp [h]
  · next h =>
    have hb : b.toNat ≠ 0 := fun e => h (BitVec.eq_of_toNat_eq e)
    rw [BitVec.toNat_sub]
    have := b.isLt
    simp only [BitVec.toNat_ofNat]
    omega

/-- No key is found exactly when the latch is 0 (R144). -/
theorem lowestKey_eq_none (key : BitVec 16) : lowestKey key = none ↔ key = 0#16 := by
  constructor
  · intro h
    apply BitVec.eq_of_getLsbD_eq
    intro i hi
    have := List.find?_eq_none.1 h i (List.mem_range.2 hi)
    simpa using this
  · intro h
    subst h
    decide

/-- The key found is down, and no lower key is (R144). -/
theorem lowestKey_eq_some {key : BitVec 16} {k : Nat} (h : lowestKey key = some k) :
    k < 16 ∧ key.getLsbD k = true ∧ ∀ j, j < k → key.getLsbD j = false := by
  have hk : k < 16 := List.mem_range.1 (List.mem_of_find?_eq_some h)
  refine ⟨hk, by simpa using List.find?_some h, fun j hj => ?_⟩
  obtain ⟨_, i, hi, hik, hlt⟩ := List.find?_eq_some_iff_getElem.1 h
  simp only [List.length_range] at hi
  simp only [List.getElem_range] at hik hlt
  have := hlt j (by omega)
  simpa using this

/-! ## The host -/

theorem loadMoves_length (a : Nat) (bs : List Byte) : (loadMoves a bs).length = bs.length := by
  induction bs generalizing a with
  | nil => rfl
  | cons b bs ih => simp [loadMoves, ih]

/-! ## The execute step: every instruction answers a next state (R85) -/

theorem exec_answers_next (i : Instr) (s : State) : ∃ t, exec i s = .next t := by
  cases i <;> simp only [exec, execCls, execRet, execJpAddr, execCallAddr, execSeVxByte, execSneVxByte, execSeVxVy,
    execLdVxByte, execAddVxByte, execLdVxVy, execOrVxVy, execAndVxVy, execXorVxVy, execAddVxVy, execSubVxVy, execShrVx,
    execSubnVxVy, execShlVx, execSneVxVy, execLdIAddr, execJpVxAddr, execRndVxByte, execSkpVx, execSknpVx, execLdVxDT,
    execLdVxK, execLdDTVx, execLdSTVx, execAddIVx, execLdFVx] <;>
    first
    | exact ⟨_, rfl⟩
    | (split <;> exact ⟨_, rfl⟩)
    | (simp only [execDrwVxVyNibble, execLdBVx, execLdMemVx, execLdVxMem]; split <;> exact ⟨_, rfl⟩)

end Sys2Proof.Machine
end

