-- ==== Sys2Proof/Laws/Display.lean ====
section
/-! SUPPORT. The laws of the display surface: what toggling a pixel does, what drawing a list of points without
repetition does, and which points a sprite lands on. -/

namespace Sys2Proof.Machine

theorem Pos.ext_val {p q : Pos} (hx : p.px.val = q.px.val) (hy : p.py.val = q.py.val) : p = q := by
  obtain ⟨px, py⟩ := p
  obtain ⟨qx, qy⟩ := q
  simp only [Pos.mk.injEq]
  exact ⟨Fin.ext hx, Fin.ext hy⟩

/-- Toggling changes one pixel (R132). -/
theorem pixel_toggle (d : Display) (p q : Pos) : (d.toggle p).pixel q = (d.pixel q ^^ decide (q = p)) := by
  unfold Display.toggle Display.pixel
  by_cases hy : p.py.val = q.py.val
  · by_cases hx : p.px.val = q.px.val
    · have h : q = p := (Pos.ext_val hx hy).symm
      subst h
      simp
    · have h : q ≠ p := fun e => hx (e ▸ rfl)
      simp [hy, h, BitVec.getElem_twoPow, Ne.symm hx]
  · have h : q ≠ p := fun e => hy (e ▸ rfl)
    rw [Vector.getElem_set_ne _ _ hy]
    simp [h]

/-- A blank surface has no set pixel (R131). -/
@[simp] theorem pixel_blank (p : Pos) : Display.blank.pixel p = false := by
  simp [Display.blank, Display.pixel]

theorem foldl_plot (ps : List Pos) (hn : ps.Nodup) (d : Display) (c : Bool) :
    (∀ q, (ps.foldl plot (d, c)).1.pixel q = (d.pixel q ^^ decide (q ∈ ps))) ∧
    (ps.foldl plot (d, c)).2 = (c || ps.any (fun p => d.pixel p)) := by
  induction ps generalizing d c with
  | nil => simp
  | cons p ps ih =>
    obtain ⟨hp, hn'⟩ := List.nodup_cons.1 hn
    obtain ⟨h1, h2⟩ := ih hn' (d.toggle p) (c || d.pixel p)
    refine ⟨fun q => ?_, ?_⟩
    · rw [List.foldl_cons, plot, h1 q, pixel_toggle]
      by_cases hq : q = p
      · subst hq
        simp [hp]
      · simp [hq]
    · rw [List.foldl_cons, plot, h2, List.any_cons, Bool.or_assoc]
      congr 2
      have : ∀ q ∈ ps, (d.toggle p).pixel q = d.pixel q := by
        intro q hq
        have hqp : q ≠ p := fun e => hp (e ▸ hq)
        simp [pixel_toggle, hqp]
      rw [Bool.eq_iff_iff, List.any_eq_true, List.any_eq_true]
      constructor
      · rintro ⟨q, hq, h⟩
        exact ⟨q, hq, by rw [← this q hq]; exact h⟩
      · rintro ⟨q, hq, h⟩
        exact ⟨q, hq, by rw [this q hq]; exact h⟩

/-- Drawing points without repetition toggles exactly those pixels, and collides when one of them was set (R132). -/
theorem drawPoints_spec (d : Display) (ps : List Pos) (hn : ps.Nodup) :
    (∀ q, (drawPoints d ps).1.pixel q = (d.pixel q ^^ decide (q ∈ ps))) ∧
    (drawPoints d ps).2 = ps.any (fun p => d.pixel p) := by
  have h := foldl_plot ps hn d false
  exact ⟨h.1, by rw [drawPoints, h.2, Bool.false_or]⟩

theorem mem_rowPoints {w : DrawWrap} {ox oy r : Nat} {b : Byte} {p : Pos} :
    p ∈ rowPoints w ox oy r b ↔ ∃ c, c < 8 ∧ b.getLsbD (7 - c) = true ∧ place w (ox + c) (oy + r) = p := by
  simp only [rowPoints, List.mem_map, List.mem_filter, List.mem_range]
  constructor
  · rintro ⟨c, ⟨hc, hb⟩, he⟩
    exact ⟨c, hc, hb, he⟩
  · rintro ⟨c, hc, hb, he⟩
    exact ⟨c, ⟨hc, hb⟩, he⟩

/-- The points of a sprite are the places of its set bits (R132). -/
theorem mem_spritePoints {w : DrawWrap} {ox oy r : Nat} {bs : List Byte} {p : Pos} :
    p ∈ spritePoints w ox oy r bs ↔
      ∃ k c, ∃ h : k < bs.length, c < 8 ∧ bs[k].getLsbD (7 - c) = true ∧ place w (ox + c) (oy + (r + k)) = p := by
  induction bs generalizing r with
  | nil => simp [spritePoints]
  | cons b bs ih =>
    rw [spritePoints, List.mem_append, mem_rowPoints, ih]
    constructor
    · rintro (⟨c, hc, hb, he⟩ | ⟨k, c, hk, hc, hb, he⟩)
      · exact ⟨0, c, by simp, hc, by simpa using hb, by simpa using he⟩
      · exact ⟨k + 1, c, by simpa using hk, hc, by simpa using hb, by rw [← he]; congr 2; omega⟩
    · rintro ⟨k, c, hk, hc, hb, he⟩
      cases k with
      | zero => exact .inl ⟨c, hc, by simpa using hb, by simpa using he⟩
      | succ k =>
        exact .inr ⟨k, c, by simpa using hk, hc, by simpa using hb, by rw [← he]; congr 2; omega⟩

end Sys2Proof.Machine
end

