-- ==== Sys2Proof/Laws/Step.lean ====
section
/-! SUPPORT. What a step can do, said once: the cycle's five cases (spec/40_cycle.md R80) and the host's three moves. -/

namespace Sys2Proof.Machine

/-- A cycle on a halted core keeps everything (R81). -/
theorem cycleBody_halted (s : State) (h : s.halted = true) : cycleBody s = .next s := by
  simp [cycleBody, h]

/-- A cycle at a PC above 4094 raises the fetch fault (R83). -/
theorem cycleBody_fetchFault (s : State) (h : s.halted = false) (hp : 4094 < s.pc.toNat) :
    cycleBody s = .next (s.enterFault (.fetchRange s.pc)) := by
  simp [cycleBody, h, s.fetch_of_gt hp, raise]

/-- A cycle on an illegal word reports it and ticks (R88). -/
theorem cycleBody_illegal (s : State) (h : s.halted = false) (hp : s.pc.toNat ≤ 4094) (e : DecodeFailure)
    (hd : decodeWord (wordOfBytes (s.byteAt s.pc.toNat) (s.byteAt (s.pc.toNat + 1))) = .error e) :
    cycleBody s = .next (s.reportDecodeFailure (wordOfBytes (s.byteAt s.pc.toNat) (s.byteAt (s.pc.toNat + 1)))).tick := by
  simp [cycleBody, h, s.fetch_of_le hp, hd, State.endCycle]

/-- A cycle on a legal word executes it and ticks, unless it raised a fault (R85, R86, R155). -/
theorem cycleBody_exec (s : State) (h : s.halted = false) (hp : s.pc.toNat ≤ 4094) (i : Instr)
    (hd : decodeWord (wordOfBytes (s.byteAt s.pc.toNat) (s.byteAt (s.pc.toNat + 1))) = .ok i) (t : State)
    (ht : exec i s = .next t) : cycleBody s = .next t.endCycle := by
  simp [cycleBody, h, s.fetch_of_le hp, hd, ht]

/-- Everything a cycle can do. -/
theorem cycleBody_cases (s : State) :
    (s.halted = true ∧ cycleBody s = .next s) ∨
    (s.halted = false ∧ 4094 < s.pc.toNat ∧ cycleBody s = .next (s.enterFault (.fetchRange s.pc))) ∨
    (s.halted = false ∧ s.pc.toNat ≤ 4094 ∧
      (∃ e, decodeWord (wordOfBytes (s.byteAt s.pc.toNat) (s.byteAt (s.pc.toNat + 1))) = .error e) ∧
      cycleBody s =
        .next (s.reportDecodeFailure (wordOfBytes (s.byteAt s.pc.toNat) (s.byteAt (s.pc.toNat + 1)))).tick) ∨
    (s.halted = false ∧ s.pc.toNat ≤ 4094 ∧
      ∃ i t, decodeWord (wordOfBytes (s.byteAt s.pc.toNat) (s.byteAt (s.pc.toNat + 1))) = .ok i ∧
        exec i s = .next t ∧ cycleBody s = .next t.endCycle) := by
  cases hh : s.halted with
  | true => exact .inl ⟨rfl, cycleBody_halted s hh⟩
  | false =>
    by_cases hp : s.pc.toNat ≤ 4094
    · cases hd : decodeWord (wordOfBytes (s.byteAt s.pc.toNat) (s.byteAt (s.pc.toNat + 1))) with
      | error e => exact .inr (.inr (.inl ⟨rfl, hp, ⟨e, rfl⟩, cycleBody_illegal s hh hp e hd⟩))
      | ok i =>
        obtain ⟨t, ht⟩ := exec_answers_next i s
        exact .inr (.inr (.inr ⟨rfl, hp, i, t, rfl, ht, cycleBody_exec s hh hp i hd t ht⟩))
    · exact .inr (.inl ⟨rfl, by omega, cycleBody_fetchFault s hh (by omega)⟩)

/-- A step that answers a next state is one of the host's three moves (R185). -/
theorem step_cases {s t : State} (h : step s = .next t) :
    (∃ key rnd, s.nextMove = .cycle key rnd ∧ cycleBody (s.beginCycle key rnd) = .next t) ∨
    (s.nextMove = .reset ∧ t = s.hostReset) ∨
    (∃ a b, s.nextMove = .load a b ∧ s.started = false ∧ t = s.hostLoad a b) := by
  unfold step at h
  split at h
  · next key rnd hm => exact .inl ⟨key, rnd, hm, h⟩
  · next hm => exact .inr (.inl ⟨hm, by injection h with e; exact e.symm⟩)
  · next a b hm =>
    split at h
    · cases h
    · next hs => exact .inr (.inr ⟨a, b, hm, by simpa using hs, by injection h with e; exact e.symm⟩)

end Sys2Proof.Machine
end

