-- ==== Sys2Proof/Laws/Run.lean ====
section
/-! SUPPORT. Runs: one step then the rest, and the host's listed cycles step by step. -/

namespace Sys2Proof.Machine

@[simp] theorem State.run_zero (s : State) : s.run 0 = .next s := rfl

/-- One step of the host's run, by the outcome of the step. -/
theorem core_run_succ (M : Host.Core) (k : Nat) (s : M.State) :
    (∀ t, M.step s = .next t → M.run (k + 1) s = M.run k t) ∧
    (∀ r, M.step s = .fault r → M.run (k + 1) s = .fault r) ∧
    (∀ r, M.step s = .refused r → M.run (k + 1) s = .refused r) := by
  refine ⟨?_, ?_, ?_⟩ <;> (intro t h; simp only [Host.Core.run, h])

/-- The run of the claims is the host's run of this machine. -/
theorem State.run_eq_core (k : Nat) (s : State) : s.run k = Host.Core.run Sys2Proof.core k s := by
  induction k generalizing s with
  | zero => rfl
  | succ k ih =>
    unfold State.run
    cases h : step s with
    | next t => exact (ih t).trans ((core_run_succ Sys2Proof.core k s).1 t h).symm
    | fault r => exact ((core_run_succ Sys2Proof.core k s).2.1 r h).symm
    | refused r => exact ((core_run_succ Sys2Proof.core k s).2.2 r h).symm

/-- A run of `k + 1` steps is a step and a run of `k`. -/
theorem State.run_succ (k : Nat) (s t : State) (h : step s = .next t) : s.run (k + 1) = t.run k := by
  simp only [State.run, h]

/-- A run of `k + 1` steps that answers a next state starts with a step that does. -/
theorem State.run_succ_cases {k : Nat} {s u : State} (h : s.run (k + 1) = .next u) :
    ∃ t, step s = .next t ∧ t.run k = .next u := by
  simp only [State.run] at h
  split at h
  · next t ht => exact ⟨t, ht, h⟩
  · cases h
  · cases h

/-- Where every listed move is a cycle, so are the next `n`. -/
theorem State.cyclesNext_of_all {s : State} (h : s.host.all HostMove.isCycle = true) (n : Nat) : s.cyclesNext n := by
  intro m hm
  have hc := List.all_eq_true.1 h m (List.mem_of_mem_take hm)
  cases m with
  | cycle key rnd => exact ⟨key, rnd, rfl⟩
  | reset => cases hc
  | load a b => cases hc

/-- Where the next `n + 1` moves are cycles, the next one is. -/
theorem State.cyclesNext_head {n : Nat} {s : State} (h : s.cyclesNext (n + 1)) : s.cycleNext := by
  unfold State.cycleNext State.nextMove
  cases hs : s.host with
  | nil => exact ⟨_, _, rfl⟩
  | cons m ms =>
    obtain ⟨k, r, e⟩ := h m (by simp [hs])
    exact ⟨k, r, e⟩

/-- Where the next `n + 1` moves are cycles, the `n` after the first are. -/
theorem State.cyclesNext_tail {n : Nat} {s t : State} (h : s.cyclesNext (n + 1)) (ht : t.host = s.host.tail) :
    t.cyclesNext n := by
  intro m hm
  rw [ht] at hm
  apply h m
  cases hs : s.host with
  | nil => simp [hs] at hm
  | cons a as =>
    rw [hs, List.tail_cons] at hm
    rw [List.take_succ_cons]
    exact List.mem_cons_of_mem a hm

end Sys2Proof.Machine
end

