-- ==== Sys2Proof/Laws/Exec.lean ====
section
/-! SUPPORT. What the execute step does, whatever the instruction: nothing outside the core, and memory stays in its
canonical form. -/

namespace Sys2Proof.Machine

theorem writeLogic_keepsOutside (s : State) (x : RegId) (r : Byte) : KeepsOutside s (s.writeLogic x r) := by
  unfold State.writeLogic
  split <;> exact ⟨rfl, rfl, rfl, rfl, rfl, rfl⟩

/-- No instruction touches the inputs, the parameters, the host's moves or the model's own fields. -/
theorem exec_keepsOutside {i : Instr} {s t : State} (h : exec i s = .next t) : KeepsOutside s t := by
  cases i <;> simp only [exec, execCls, execRet, execJpAddr, execCallAddr, execSeVxByte, execSneVxByte, execSeVxVy,
    execLdVxByte, execAddVxByte, execLdVxVy, execOrVxVy, execAndVxVy, execXorVxVy, execAddVxVy, execSubVxVy, execShrVx,
    execSubnVxVy, execShlVx, execSneVxVy, execLdIAddr, execJpVxAddr, execRndVxByte, execSkpVx, execSknpVx, execLdVxDT,
    execLdVxK, execLdDTVx, execLdSTVx, execAddIVx, execLdFVx, execDrwVxVyNibble, execLdBVx, execLdMemVx, execLdVxMem,
    raise] at h
  case orVxVy | andVxVy | xorVxVy =>
    injection h with h
    subst h
    exact writeLogic_keepsOutside _ _ _
  case ldVxK =>
    injection h with h
    subst h
    split <;> exact ⟨rfl, rfl, rfl, rfl, rfl, rfl⟩
  all_goals first
    | (injection h with h; subst h; exact ⟨rfl, rfl, rfl, rfl, rfl, rfl⟩)
    | (split at h <;> (injection h with h; subst h; exact ⟨rfl, rfl, rfl, rfl, rfl, rfl⟩))

/-- A store within memory keeps the canonical form; no other instruction touches memory (R48). -/
theorem exec_keepsMemoryForm {i : Instr} {s t : State} (hw : s.mem.wf = true) (h : exec i s = .next t) :
    t.mem.wf = true := by
  cases i <;> simp only [exec, execCls, execRet, execJpAddr, execCallAddr, execSeVxByte, execSneVxByte, execSeVxVy,
    execLdVxByte, execAddVxByte, execLdVxVy, execOrVxVy, execAndVxVy, execXorVxVy, execAddVxVy, execSubVxVy, execShrVx,
    execSubnVxVy, execShlVx, execSneVxVy, execLdIAddr, execJpVxAddr, execRndVxByte, execSkpVx, execSknpVx, execLdVxDT,
    execLdVxK, execLdDTVx, execLdSTVx, execAddIVx, execLdFVx, execDrwVxVyNibble, execLdBVx, execLdMemVx, execLdVxMem,
    raise] at h
  case orVxVy | andVxVy | xorVxVy =>
    injection h with h
    subst h
    unfold State.writeLogic
    split <;> exact hw
  case ldVxK =>
    injection h with h
    subst h
    split <;> exact hw
  case ldBVx =>
    split at h <;> (injection h with h; subst h)
    · exact hw
    · next hr =>
      rw [rangeFault_eq_none] at hr
      exact wf_storeBytes (by simp [decimalDigits, State.effAddr, memSize]; omega) hw
  case ldMemVx =>
    split at h <;> (injection h with h; subst h)
    · exact hw
    · next hr =>
      rw [rangeFault_eq_none] at hr
      exact wf_storeBytes (by simp only [State.regsUpTo_length, State.effAddr, blockCount, memSize] at *; omega) hw
  all_goals first
    | (injection h with h; subst h; exact hw)
    | (split at h <;> (injection h with h; subst h; exact hw))

/-- The load port keeps the canonical form (R184). -/
theorem hostLoad_wf {s : State} (hw : s.mem.wf = true) (a : Addr12) (b : Byte) : (s.hostLoad a b).mem.wf = true :=
  wf_write b a.isLt hw

/-- Reset memory is in canonical form, whatever FONT is (R30). -/
theorem resetMemory_wf (c : Config) : (resetMemory c).wf = true :=
  wf_storeBytes (by simp [memSize]) rfl

end Sys2Proof.Machine
end

