-- ==== Sys2Proof/Laws/PerInstr.lean ====
section
/-! SUPPORT. The family TableRow: the word of every instruction meets its own row of the opcode table,
`w & mask == match` (spec/30_encoding.md R66), one lemma per constructor. -/

namespace Sys2Proof.Laws

theorem formatA_and_mask (op : Nibble) (a : Addr12) : formatA op a &&& 0xF000#16 = formatA op 0#12 := by
  apply BitVec.eq_of_getLsbD_eq
  intro i hi
  simp only [formatA, BitVec.getLsbD_and, BitVec.getLsbD_append]
  interval_cases i <;> simp

theorem formatXK_and_mask (op : Nibble) (x : RegId) (kk : Byte) :
    formatXK op x kk &&& 0xF000#16 = formatXK op 0#4 0#8 := by
  apply BitVec.eq_of_getLsbD_eq
  intro i hi
  simp only [formatXK, BitVec.getLsbD_and, BitVec.getLsbD_append]
  interval_cases i <;> simp

theorem formatXK_and_maskKK (op : Nibble) (x : RegId) (kk : Byte) :
    formatXK op x kk &&& 0xF0FF#16 = formatXK op 0#4 kk := by
  apply BitVec.eq_of_getLsbD_eq
  intro i hi
  simp only [formatXK, BitVec.getLsbD_and, BitVec.getLsbD_append]
  interval_cases i <;> simp

theorem formatXYN_and_mask (op : Nibble) (x y : RegId) (n : Nibble) :
    formatXYN op x y n &&& 0xF000#16 = formatXYN op 0#4 0#4 0#4 := by
  apply BitVec.eq_of_getLsbD_eq
  intro i hi
  simp only [formatXYN, BitVec.getLsbD_and, BitVec.getLsbD_append]
  interval_cases i <;> simp

theorem formatXYN_and_maskN (op : Nibble) (x y : RegId) (n : Nibble) :
    formatXYN op x y n &&& 0xF00F#16 = formatXYN op 0#4 0#4 n := by
  apply BitVec.eq_of_getLsbD_eq
  intro i hi
  simp only [formatXYN, BitVec.getLsbD_and, BitVec.getLsbD_append]
  interval_cases i <;> simp

namespace TableRow

/-- The word of an instruction meets its row (R66). -/
def Statement (i : Instr) : Prop := encode i &&& i.mask = i.matchBits

theorem cls : Statement .cls := by unfold Statement; decide
theorem ret : Statement .ret := by unfold Statement; decide
theorem jpAddr (nnn : Addr12) : Statement (.jpAddr nnn) := formatA_and_mask 0x1#4 nnn
theorem callAddr (nnn : Addr12) : Statement (.callAddr nnn) := formatA_and_mask 0x2#4 nnn
theorem seVxByte (x : RegId) (kk : Byte) : Statement (.seVxByte x kk) := formatXK_and_mask 0x3#4 x kk
theorem sneVxByte (x : RegId) (kk : Byte) : Statement (.sneVxByte x kk) := formatXK_and_mask 0x4#4 x kk
theorem seVxVy (x y : RegId) : Statement (.seVxVy x y) := formatXYN_and_mask 0x5#4 x y 0x0#4
theorem ldVxByte (x : RegId) (kk : Byte) : Statement (.ldVxByte x kk) := formatXK_and_mask 0x6#4 x kk
theorem addVxByte (x : RegId) (kk : Byte) : Statement (.addVxByte x kk) := formatXK_and_mask 0x7#4 x kk
theorem ldVxVy (x y : RegId) : Statement (.ldVxVy x y) := formatXYN_and_maskN 0x8#4 x y 0x0#4
theorem orVxVy (x y : RegId) : Statement (.orVxVy x y) := formatXYN_and_maskN 0x8#4 x y 0x1#4
theorem andVxVy (x y : RegId) : Statement (.andVxVy x y) := formatXYN_and_maskN 0x8#4 x y 0x2#4
theorem xorVxVy (x y : RegId) : Statement (.xorVxVy x y) := formatXYN_and_maskN 0x8#4 x y 0x3#4
theorem addVxVy (x y : RegId) : Statement (.addVxVy x y) := formatXYN_and_maskN 0x8#4 x y 0x4#4
theorem subVxVy (x y : RegId) : Statement (.subVxVy x y) := formatXYN_and_maskN 0x8#4 x y 0x5#4
theorem shrVx (x y : RegId) : Statement (.shrVx x y) := formatXYN_and_maskN 0x8#4 x y 0x6#4
theorem subnVxVy (x y : RegId) : Statement (.subnVxVy x y) := formatXYN_and_maskN 0x8#4 x y 0x7#4
theorem shlVx (x y : RegId) : Statement (.shlVx x y) := formatXYN_and_maskN 0x8#4 x y 0xE#4
theorem sneVxVy (x y : RegId) : Statement (.sneVxVy x y) := formatXYN_and_mask 0x9#4 x y 0x0#4
theorem ldIAddr (nnn : Addr12) : Statement (.ldIAddr nnn) := formatA_and_mask 0xA#4 nnn
theorem jpVxAddr (x : RegId) (nnn : Addr12) : Statement (.jpVxAddr x nnn) := formatA_and_mask 0xB#4 nnn
theorem rndVxByte (x : RegId) (kk : Byte) : Statement (.rndVxByte x kk) := formatXK_and_mask 0xC#4 x kk
theorem drwVxVyNibble (x y : RegId) (n : Nibble) : Statement (.drwVxVyNibble x y n) := formatXYN_and_mask 0xD#4 x y n
theorem skpVx (x : RegId) : Statement (.skpVx x) := formatXK_and_maskKK 0xE#4 x 0x9E#8
theorem sknpVx (x : RegId) : Statement (.sknpVx x) := formatXK_and_maskKK 0xE#4 x 0xA1#8
theorem ldVxDT (x : RegId) : Statement (.ldVxDT x) := formatXK_and_maskKK 0xF#4 x 0x07#8
theorem ldVxK (x : RegId) : Statement (.ldVxK x) := formatXK_and_maskKK 0xF#4 x 0x0A#8
theorem ldDTVx (x : RegId) : Statement (.ldDTVx x) := formatXK_and_maskKK 0xF#4 x 0x15#8
theorem ldSTVx (x : RegId) : Statement (.ldSTVx x) := formatXK_and_maskKK 0xF#4 x 0x18#8
theorem addIVx (x : RegId) : Statement (.addIVx x) := formatXK_and_maskKK 0xF#4 x 0x1E#8
theorem ldFVx (x : RegId) : Statement (.ldFVx x) := formatXK_and_maskKK 0xF#4 x 0x29#8
theorem ldBVx (x : RegId) : Statement (.ldBVx x) := formatXK_and_maskKK 0xF#4 x 0x33#8
theorem ldMemVx (x : RegId) : Statement (.ldMemVx x) := formatXK_and_maskKK 0xF#4 x 0x55#8
theorem ldVxMem (x : RegId) : Statement (.ldVxMem x) := formatXK_and_maskKK 0xF#4 x 0x65#8

end TableRow

end Sys2Proof.Laws
end

