-- ==== Sys2Proof/Tests/Slice0.lean ====
section
/-! SUPPORT. The model's own tests. Expected results come from the spec: the encodings of spec/30_encoding.md R66 and
the vectors of spec/95_test_vectors.md, whose conventions `start` follows (the reset state, the word at the address
given, key = 0 and rnd = 0 unless stated). -/

namespace Sys2Proof.Tests

open Sys2Proof.Machine

/-! ## Small states -/

/-- The reset state with one cycle under the inputs listed, PC at an address and bytes there. -/
def cycleAt (a : Nat) (bytes : List Byte) (key : BitVec 16) (rnd : Byte) : State :=
  { State.reset with pc := BitVec.ofNat 16 a, host := [.cycle key rnd] }.storeBytes a bytes

/-- The reset state with bytes at 0x200, inputs 0. -/
def start (bytes : List Byte) : State := cycleAt 0x200 bytes 0 0

/-- The parameters changed. -/
def withCfg (f : Config → Config) (s : State) : State := { s with cfg := f s.cfg }

/-- General registers set. -/
def regs (rs : List (RegId × Byte)) (s : State) : State := rs.foldl (fun s r => s.setReg r.1 r.2) s

/-- The sprite byte of a display test at 0x300 and I naming it. -/
def sprite (bs : List Byte) (s : State) : State := (s.storeBytes 0x300 bs).setIndex 0x300

/-- One pixel set. -/
def withPixel (px : Fin 64) (py : Fin 32) (s : State) : State := { s with disp := s.disp.toggle ⟨px, py⟩ }

/-- What is seen of the state after one step, if the step answers one. -/
def see {α : Type} (s : State) (f : State → α) : Option α :=
  match step s with
  | .next t => some (f t)
  | _ => none

/-- The pixels set. -/
def lit (s : State) : List (Nat × Nat) :=
  (List.range 32).flatMap (fun y => ((List.range 64).filter (fun x =>
    (s.disp.toList.getD y 0#64).getLsbD x)).map (fun x => (x, y)))

/-! ## WellFormed: the one check refuses an ill-formed term (R67, R70) -/

theorem test_wf_refuses_jump_with_a_wrong_x : (Instr.jpVxAddr 1 0x234).wf = false := by decide
theorem test_wf_accepts_jump_with_its_x : (Instr.jpVxAddr 2 0x234).wf = true := by decide

/-! ## Decoding: one word of every row, written out from the encoding column of R66 -/

theorem test_decode_cls : decodeWord 0b0000000011100000#16 = .ok .cls := by decide
theorem test_decode_ret : decodeWord 0b0000000011101110#16 = .ok .ret := by decide
theorem test_decode_jpAddr : decodeWord 0b0001001000000100#16 = .ok (.jpAddr 0x204) := by decide
theorem test_decode_callAddr : decodeWord 0b0010101010111100#16 = .ok (.callAddr 0xABC) := by decide
theorem test_decode_seVxByte : decodeWord 0b0011000111111110#16 = .ok (.seVxByte 1 0xFE) := by decide
theorem test_decode_sneVxByte : decodeWord 0b0100001100000111#16 = .ok (.sneVxByte 3 7) := by decide
theorem test_decode_seVxVy : decodeWord 0b0101000100101111#16 = .ok (.seVxVy 1 2) := by decide
theorem test_decode_ldVxByte : decodeWord 0b0110111110101011#16 = .ok (.ldVxByte 15 0xAB) := by decide
theorem test_decode_addVxByte : decodeWord 0b0111000011111111#16 = .ok (.addVxByte 0 0xFF) := by decide
theorem test_decode_ldVxVy : decodeWord 0b1000000100100000#16 = .ok (.ldVxVy 1 2) := by decide
theorem test_decode_orVxVy : decodeWord 0b1000000100100001#16 = .ok (.orVxVy 1 2) := by decide
theorem test_decode_andVxVy : decodeWord 0b1000000100100010#16 = .ok (.andVxVy 1 2) := by decide
theorem test_decode_xorVxVy : decodeWord 0b1000111100100011#16 = .ok (.xorVxVy 15 2) := by decide
theorem test_decode_addVxVy : decodeWord 0b1000000100000100#16 = .ok (.addVxVy 1 0) := by decide
theorem test_decode_subVxVy : decodeWord 0b1000000100100101#16 = .ok (.subVxVy 1 2) := by decide
theorem test_decode_shrVx : decodeWord 0b1000000100100110#16 = .ok (.shrVx 1 2) := by decide
theorem test_decode_subnVxVy : decodeWord 0b1000000100100111#16 = .ok (.subnVxVy 1 2) := by decide
theorem test_decode_shlVx : decodeWord 0b1000000100101110#16 = .ok (.shlVx 1 2) := by decide
theorem test_decode_sneVxVy : decodeWord 0b1001000100100111#16 = .ok (.sneVxVy 1 2) := by decide
theorem test_decode_ldIAddr : decodeWord 0b1010001100000000#16 = .ok (.ldIAddr 0x300) := by decide
theorem test_decode_jpVxAddr : decodeWord 0b1011001000110100#16 = .ok (.jpVxAddr 2 0x234) := by decide
theorem test_decode_rndVxByte : decodeWord 0b1100001100001111#16 = .ok (.rndVxByte 3 0x0F) := by decide
theorem test_decode_drwVxVyNibble : decodeWord 0b1101000100100101#16 = .ok (.drwVxVyNibble 1 2 5) := by decide
theorem test_decode_skpVx : decodeWord 0b1110000110011110#16 = .ok (.skpVx 1) := by decide
theorem test_decode_sknpVx : decodeWord 0b1110000110100001#16 = .ok (.sknpVx 1) := by decide
theorem test_decode_ldVxDT : decodeWord 0b1111010000000111#16 = .ok (.ldVxDT 4) := by decide
theorem test_decode_ldVxK : decodeWord 0b1111000100001010#16 = .ok (.ldVxK 1) := by decide
theorem test_decode_ldDTVx : decodeWord 0b1111001100010101#16 = .ok (.ldDTVx 3) := by decide
theorem test_decode_ldSTVx : decodeWord 0b1111000000011000#16 = .ok (.ldSTVx 0) := by decide
theorem test_decode_addIVx : decodeWord 0b1111000100011110#16 = .ok (.addIVx 1) := by decide
theorem test_decode_ldFVx : decodeWord 0b1111000000101001#16 = .ok (.ldFVx 0) := by decide
theorem test_decode_ldBVx : decodeWord 0b1111000000110011#16 = .ok (.ldBVx 0) := by decide
theorem test_decode_ldMemVx : decodeWord 0b1111001001010101#16 = .ok (.ldMemVx 2) := by decide
theorem test_decode_ldVxMem : decodeWord 0b1111001001100101#16 = .ok (.ldVxMem 2) := by decide
theorem test_decode_illegal_class0 : decodeWord 0x00E1#16 = .error (.class0 0x00E1#16) := by decide
theorem test_decode_illegal_class8 : decodeWord 0x8008#16 = .error (.class8 0x8008#16) := by decide
theorem test_decode_illegal_classE : decodeWord 0xE19F#16 = .error (.classE 0xE19F#16) := by decide
theorem test_decode_illegal_classF : decodeWord 0xFFFF#16 = .error (.classF 0xFFFF#16) := by decide
theorem test_decode_bytes_are_high_byte_first :
    decodeBytes [0x81, 0x04, 0x12] = .ok (.addVxVy 1 0, [0x12]) := by decide
theorem test_table_word_of_the_host : decodeTableWord 16 0xD125 = some (.drwVxVyNibble 1 2 5) := by decide

/-! ## The assembler syntax (the examples of R70) -/

theorem test_assemble_ld : assemble ⟨.LD, [.reg 3, .num 0x2A]⟩ = some 0x632A := by decide
theorem test_assemble_add : assemble ⟨.ADD, [.reg 1, .reg 0]⟩ = some 0x8104 := by decide
theorem test_assemble_drw : assemble ⟨.DRW, [.reg 1, .reg 2, .num 5]⟩ = some 0xD125 := by decide
theorem test_assemble_jp_with_offset :
    assemble ⟨.JP, [.reg 2, .num 0x234]⟩ = some 0xB234 ∧ assemble ⟨.JP, [.reg 1, .num 0x234]⟩ = none := by decide
theorem test_assemble_shr_with_y_zero : assemble ⟨.SHR, [.reg 1]⟩ = some 0x8106 := by decide

/-! ## Control transfer (vectors 2.1) -/

theorem test_ret_steps_past_the_call :
    see { (cycleAt 0x20C [0x00, 0xEE] 0 0).setSlot 1 0x204 with sp := 1 }
      (fun t => (t.pc, t.sp, t.slot 1)) = some (0x206, 0, 0x204) := by decide
theorem test_ret_on_an_empty_stack :
    see { (start [0x00, 0xEE]) with dt := 5, st := 5 }
      (fun t => (t.halted, t.cause, t.tval, t.dt, t.out)) =
      some (true, 5, 0, 5, ⟨false, false, 5, 0⟩) := by decide
theorem test_jp_to_an_odd_address : see (start [0x12, 0x01])
      (fun t => t.pc) = some 0x201 := by decide
theorem test_call_pushes_its_own_address :
    see (cycleAt 0x204 [0x22, 0x0A] 0 0)
      (fun t => (t.sp, t.slot 1, t.slot 0, t.pc)) = some (1, 0x204, 0, 0x20A) := by decide
theorem test_call_on_a_full_stack :
    see { (cycleAt 0x300 [0x2A, 0xBC] 0 0) with sp := 15 }
      (fun t => (t.cause, t.tval, t.pc, t.sp, t.stack)) =
      some (4, 0, 0x300, 15, Vector.replicate 16 0) := by decide
theorem test_se_byte_skips_past_the_top :
    see (regs [(15, 0xFF)] (cycleAt 0xFFE [0x3F, 0xFF] 0 0))
      (fun t => (t.pc, t.out.report)) = some (0x1002, 0) := by decide
theorem test_se_byte_does_not_skip :
    see (cycleAt 0x208 [0x30, 0x01] 0 0)
      (fun t => t.pc) = some 0x20A := by decide
theorem test_sne_byte_skips :
    see (regs [(3, 7)] (cycleAt 0x300 [0x43, 0x08] 0 0))
      (fun t => t.pc) = some 0x304 := by decide
theorem test_se_reg_ignores_the_low_nibble :
    see (regs [(1, 9), (2, 9)] (start [0x51, 0x2F]))
      (fun t => t.pc) = some 0x204 := by decide
theorem test_sne_reg_of_one_register_never_skips :
    see (regs [(3, 4)] (start [0x93, 0x30]))
      (fun t => t.pc) = some 0x202 := by decide
theorem test_jump_with_offset_uses_the_top_digit :
    see (regs [(2, 0x10), (0, 0x99)] (start [0xB2, 0x34]))
      (fun t => t.pc) = some 0x244 := by decide
theorem test_jump_with_offset_is_not_masked :
    see (regs [(15, 0xFF)] (start [0xBF, 0xFF]))
      (fun t => (t.pc, t.halted)) = some (0x10FE, false) := by decide

/-! ## Loads, arithmetic, logic, shifts, random (vectors 2.2) -/

theorem test_ld_byte_into_vf :
    see (start [0x6F, 0xAB])
      (fun t => (t.reg 15, t.pc)) = some (0xAB, 0x202) := by decide
theorem test_add_byte_wraps_without_a_flag :
    see (regs [(0, 0xFF), (15, 9)] (start [0x70, 0x02]))
      (fun t => (t.reg 0, t.reg 15)) = some (1, 9) := by decide
theorem test_ld_reg_never_writes_vf :
    see (withCfg (fun c => { c with logicVF := .zero }) (regs [(2, 0x7C), (15, 9)] (start [0x81, 0x20])))
      (fun t => (t.reg 1, t.reg 15)) = some (0x7C, 9) := by decide
theorem test_or_leaves_vf :
    see (regs [(1, 0x0F), (2, 0xF0), (15, 9)] (start [0x81, 0x21]))
      (fun t => (t.reg 1, t.reg 15)) = some (0xFF, 9) := by decide
theorem test_or_zeroes_vf :
    see (withCfg (fun c => { c with logicVF := .zero }) (regs [(1, 0x0F), (2, 0xF0), (15, 9)] (start [0x81, 0x21])))
      (fun t => (t.reg 1, t.reg 15)) = some (0xFF, 0) := by decide
theorem test_and :
    see (regs [(1, 0x3C), (2, 0x0F)] (start [0x81, 0x22]))
      (fun t => t.reg 1) = some 0x0C := by decide
theorem test_xor_into_vf :
    see (regs [(15, 0xAA), (2, 0xFF)] (start [0x8F, 0x23]))
      (fun t => t.reg 15) = some 0x55 := by decide
theorem test_add_carries :
    see (regs [(1, 0xFF), (0, 0xFF)] (start [0x81, 0x04]))
      (fun t => (t.reg 1, t.reg 15)) = some (0xFE, 1) := by decide
theorem test_add_reads_vf_before_the_flag :
    see (regs [(1, 0x10), (15, 1)] (start [0x81, 0xF4]))
      (fun t => (t.reg 1, t.reg 15)) = some (0x11, 0) := by decide
theorem test_sub_of_equals_does_not_borrow :
    see (regs [(1, 5), (2, 5)] (start [0x81, 0x25]))
      (fun t => (t.reg 1, t.reg 15)) = some (0, 1) := by decide
theorem test_sub_of_equals_at_borrow :
    see (withCfg (fun c => { c with subFlag := .borrow }) (regs [(1, 5), (2, 5), (15, 9)] (start [0x81, 0x25])))
      (fun t => (t.reg 1, t.reg 15)) = some (0, 0) := by decide
theorem test_shr_of_vx :
    see (regs [(1, 5), (2, 8)] (start [0x81, 0x26]))
      (fun t => (t.reg 1, t.reg 15)) = some (2, 1) := by decide
theorem test_shr_of_vy :
    see (withCfg (fun c => { c with shiftSrc := .vy }) (regs [(1, 5), (2, 8)] (start [0x81, 0x26])))
      (fun t => (t.reg 1, t.reg 2, t.reg 15)) = some (4, 8, 0) := by decide
theorem test_subn_borrows_from_vx :
    see (regs [(1, 2), (15, 1)] (start [0x81, 0xF7]))
      (fun t => (t.reg 1, t.reg 15)) = some (0xFF, 0) := by decide
theorem test_subn_at_borrow :
    see (withCfg (fun c => { c with subFlag := .borrow }) (regs [(1, 0x10), (2, 0x20), (15, 9)] (start [0x81, 0x27])))
      (fun t => (t.reg 1, t.reg 15)) = some (0x10, 0) := by decide
theorem test_shl_into_vf_keeps_the_flag :
    see (regs [(15, 0x80)] (start [0x8F, 0x0E]))
      (fun t => t.reg 15) = some 1 := by decide
theorem test_shl_of_vy :
    see (withCfg (fun c => { c with shiftSrc := .vy }) (regs [(1, 1), (2, 0x81)] (start [0x81, 0x2E])))
      (fun t => (t.reg 1, t.reg 2, t.reg 15)) = some (2, 0x81, 1) := by decide
theorem test_rnd_masks : see (cycleAt 0x200 [0xC3, 0x0F] 0 0xB7)
      (fun t => t.reg 3) = some 7 := by decide

/-! ## Index register and memory (vectors 2.3) -/

theorem test_ld_i : see (start [0xAF, 0xFF])
      (fun t => t.i) = some 0xFFF := by decide
theorem test_add_i_wraps :
    see { regs [(1, 2)] (start [0xF1, 0x1E]) with i := 0xFFFF }
      (fun t => (t.i, t.reg 15)) = some (1, 0) := by decide
theorem test_ld_f_is_not_reduced_to_a_digit :
    see (regs [(0, 0x1A)] (start [0xF0, 0x29]))
      (fun t => t.i) = some 0x82 := by decide
theorem test_bcd :
    see { regs [(0, 157)] (start [0xF0, 0x33]) with i := 0x300 }
      (fun t => (t.bytesAt 0x300 4, t.i)) = some ([1, 5, 7, 0], 0x300) := by decide
theorem test_bcd_out_of_range :
    see { regs [(0, 0x7B)] (start [0xF0, 0x33]) with i := 0xFFE }
      (fun t => (t.cause, t.tval, t.bytesAt 0xFFE 2, t.pc)) = some (3, 0x1000, [0, 0], 0x200) := by decide
theorem test_block_store :
    see { regs [(0, 1), (1, 2), (2, 3), (3, 4)] (start [0xF2, 0x55]) with i := 0x300 }
      (fun t => (t.bytesAt 0x300 4, t.i)) = some ([1, 2, 3, 0], 0x300) := by decide
theorem test_block_store_advancing_i :
    see (withCfg (fun c => { c with memIdxI := .advance })
        { regs [(0, 0xAB), (1, 0xCD)] (start [0xF1, 0x55]) with i := 0xFFE })
      (fun t => (t.bytesAt 0xFFE 2, t.i)) = some ([0xAB, 0xCD], 0x1000) := by decide
theorem test_block_load :
    see { (regs [(3, 0x99)] (start [0xF2, 0x65])).storeBytes 0x300 [1, 5, 7] with i := 0x300 }
      (fun t => (t.reg 0, t.reg 2, t.reg 3)) = some (1, 7, 0x99) := by decide +kernel
theorem test_block_load_out_of_range :
    see { regs [(0, 0x11), (1, 0x22)] (start [0xF1, 0x65]) with i := 0xFFF }
      (fun t => (t.cause, t.tval, t.reg 0, t.reg 1)) = some (2, 0x1000, 0x11, 0x22) := by decide
theorem test_glyph_a_of_the_default_font :
    see { (start [0xF4, 0x65]) with i := 0x32 }
      (fun t => (t.reg 0, t.reg 1, t.reg 2, t.reg 3, t.reg 4)) =
      some (0xF0, 0x90, 0xF0, 0x90, 0x90) := by decide

/-! ## Display (vectors 2.4) -/

theorem test_cls :
    see (withPixel 0 0 (regs [(15, 1)] (start [0x00, 0xE0])))
      (fun t => (lit t, t.reg 15, t.out.redraw, t.pc)) = some ([], 1, false, 0x202) := by decide
theorem test_draw_wraps_in_its_row :
    see (sprite [0xFF] (regs [(0, 60), (1, 31)] (start [0xD0, 0x11])))
      (fun t => (lit t, t.reg 15, t.out.redraw)) =
      some ([0, 1, 2, 3, 60, 61, 62, 63].map (fun x => (x, 31)), 0, true) := by decide
theorem test_draw_wraps_linearly :
    see (withCfg (fun c => { c with drawWrap := .linear })
        (sprite [0xC0] (regs [(0, 70), (1, 40)] (start [0xD0, 0x11]))))
      (fun t => (lit t)) = some [(6, 9), (7, 9)] := by decide
theorem test_draw_collides :
    see (withPixel 0 0 (sprite [0x80] (start [0xD0, 0x11])))
      (fun t => (lit t, t.reg 15)) = some ([], 1) := by decide
theorem test_draw_reads_its_origin_before_vf :
    see (sprite [0x80] (regs [(15, 5), (0, 2)] (start [0xDF, 0x01])))
      (fun t => (lit t, t.reg 15)) = some ([(5, 2)], 0) := by decide
theorem test_draw_of_no_row :
    see (withPixel 0 0 { regs [(15, 1)] (start [0xD0, 0x10]) with i := 0xFFFF })
      (fun t => (lit t, t.reg 15, t.out)) = some ([(0, 0)], 0, ⟨false, true, 0, 0⟩) := by decide
theorem test_draw_out_of_range :
    see { regs [(15, 1)] (start [0xD0, 0x12]) with i := 0xFFF }
      (fun t => (t.cause, t.tval, lit t, t.reg 15, t.out)) =
      some (2, 0x1000, [], 1, ⟨false, false, 2, 0x1000⟩) := by decide

/-! ## Keypad and timers (vectors 2.5) -/

theorem test_skp_key_down :
    see (regs [(1, 3)] (cycleAt 0x202 [0xE1, 0x9E] 8 0))
      (fun t => t.pc) = some 0x206 := by decide
theorem test_skp_tests_the_value_not_the_field :
    see (cycleAt 0x202 [0xEF, 0x9E] 1 0)
      (fun t => t.pc) = some 0x206 := by decide
theorem test_skp_key_out_of_range :
    see (regs [(0, 0x10)] (cycleAt 0x202 [0xE0, 0x9E] 0xFFFF 0))
      (fun t => (t.cause, t.tval, t.pc)) = some (6, 0x10, 0x202) := by decide
theorem test_sknp_key_up :
    see (regs [(1, 3)] (cycleAt 0x202 [0xE1, 0xA1] 0 0))
      (fun t => t.pc) = some 0x206 := by decide
theorem test_ld_vx_dt_before_the_tick :
    see { (cycleAt 0x202 [0xF4, 0x07] 0 0) with dt := 2 }
      (fun t => (t.reg 4, t.dt)) = some (2, 1) := by decide
theorem test_key_wait_blocks :
    see { regs [(1, 9)] (cycleAt 0x202 [0xF1, 0x0A] 0 0) with dt := 5, st := 5 }
      (fun t => (t.pc, t.reg 1, t.dt, t.st, t.out.soundActive)) = some (0x202, 9, 4, 4, true) := by decide
theorem test_key_wait_takes_the_least :
    see (cycleAt 0x202 [0xF1, 0x0A] 0x88 0)
      (fun t => (t.pc, t.reg 1)) = some (0x204, 3) := by decide
theorem test_ld_dt :
    see (regs [(3, 3)] (cycleAt 0x202 [0xF3, 0x15] 0 0))
      (fun t => t.dt) = some 2 := by decide
theorem test_ld_st_sounds_in_its_cycle :
    see (regs [(0, 1)] (cycleAt 0x202 [0xF0, 0x18] 0 0))
      (fun t => (t.st, t.out.soundActive)) = some (0, true) := by decide
theorem test_ld_st_of_zero_is_silent :
    see { (cycleAt 0x202 [0xF0, 0x18] 0 0) with st := 7 }
      (fun t => (t.st, t.out.soundActive)) = some (0, false) := by decide

/-! ## The cycle, faults, reset (vectors 2.6 and 2.7) -/

theorem test_illegal_word_is_reported_and_ticked :
    see { (start [0xF1, 0x03]) with dt := 3, st := 1 }
      (fun t => (t.out, t.pc, t.dt, t.st, t.halted)) =
      some (⟨true, false, 7, 0xF103⟩, 0x200, 2, 0, false) := by decide
theorem test_fetch_at_the_top :
    see { (cycleAt 0xFFE [0x60, 0x01] 0 0) with dt := 2, st := 2 }
      (fun t => (t.reg 0, t.pc, t.dt, t.st)) = some (1, 0x1000, 1, 1) := by decide
theorem test_fetch_above_the_top :
    see { (cycleAt 0xFFE [0x60, 0x01] 0 0) with pc := 0xFFF, dt := 2, st := 2 }
      (fun t => (t.halted, t.cause, t.tval, t.dt, t.st, t.out.reportInfo)) =
      some (true, 1, 0xFFF, 2, 2, 0xFFF) := by decide
theorem test_halted_cycle :
    see { (cycleAt 0x200 [0x60, 0x01] 0xFFFF 9) with halted := true, cause := 5, dt := 5, st := 5 }
      (fun t => (t.cause, t.dt, t.st, t.reg 0, t.out)) = some (5, 5, 5, 0, Outputs.none) := by decide
theorem test_reset_move_after_a_fault :
    see { State.reset with halted := true, cause := 5, pc := 0x300, sp := 3, dt := 1, host := [.reset] }
      (fun t => (t.halted, t.cause, t.pc, t.sp, t.dt, t.byteAt 0x32)) =
      some (false, 0, 0x200, 0, 0, 0xF0) := by decide
theorem test_load_move_then_refused_once_started :
    see { State.reset with host := [.load 0x200 0x60] }
      (fun t => t.byteAt 0x200) = some 0x60 ∧
      (see { State.reset with host := [.load 0x200 0x60], started := true } id).isNone := by decide
theorem test_fetch_word_runs_next :
    see (State.reset.withFetchWord 16 0x6FAB)
      (fun t => (t.reg 15, t.pc)) = some (0xAB, 0x202) := by decide

/-! ## Witnesses: a state and operands that meet all the hypotheses of a statement together, clause by clause -/

/-- What is seen of the state after `k` steps. -/
def seeRun {α : Type} (k : Nat) (s : State) (f : State → α) : Option α :=
  match s.run k with
  | .next t => some (f t)
  | _ => none

theorem seeRun_of_run {α : Type} {k : Nat} {s u : State} (f : State → α) (h : s.run k = .next u) :
    seeRun k s f = some (f u) := by
  simp [seeRun, h]

theorem run_of_seeRun {α : Type} {k : Nat} {s : State} {f : State → α} {a : α} (h : seeRun k s f = some a) :
    ∃ t, s.run k = .next t ∧ f t = a := by
  unfold seeRun at h
  split at h
  · next t ht => exact ⟨t, ht, by injection h⟩
  · cases h

theorem step_of_see {α : Type} {s : State} {f : State → α} {a : α} (h : see s f = some a) :
    ∃ t, step s = .next t ∧ f t = a := by
  unfold see at h
  split at h
  · next t ht => exact ⟨t, ht, by injection h⟩
  · cases h

/-- A state that runs the self-jump of R89 at 0x200, both timers at 2. -/
def loop : State := { start [0x12, 0x00] with dt := 2, st := 2 }

theorem witness_DecodeOfEncode : (Instr.jpVxAddr 0xB 0xBCD).wf = true ∧ (Instr.ldVxMem 15).wf = true := by decide
theorem witness_EncodeOfDecode :
    decodeWord 0x5AB7 = .ok (.seVxVy 0xA 0xB) ∧ decodeWord 0xDFFF = .ok (.drwVxVyNibble 15 15 15) := by decide
theorem witness_StepRuns :
    let s := cycleAt 0xFFE [0x60, 0x01] 3 4
    s.nextMove = .cycle 3 4 ∧ s.halted = false ∧ s.pc.toNat ≤ 4094 ∧ decodeWord s.wordAtPC = .ok (.ldVxByte 0 1) := by
  decide
theorem witness_TickEnds_running :
    let s := start [0x60, 0x01]
    s.nextMove = .cycle 0 0 ∧ s.halted = false ∧ ∃ u, step s = .next u ∧ u.halted = false :=
  ⟨by decide, by decide, step_of_see (by decide)⟩
theorem witness_TickEnds_faulting :
    let s := start [0x00, 0xEE]
    s.nextMove = .cycle 0 0 ∧ s.halted = false ∧ ∃ u, step s = .next u ∧ u.halted = true :=
  ⟨by decide, by decide, step_of_see (by decide)⟩
theorem witness_DecodeFailureReports :
    let s := start [0xF1, 0x03]
    s.nextMove = .cycle 0 0 ∧ s.halted = false ∧ s.pc.toNat ≤ 4094 ∧
      decodeWord s.wordAtPC = .error (.classF 0xF103) := by decide
theorem witness_DecodeFailureRepeats :
    let s := { start [0xF1, 0x03] with host := List.replicate 3 (.cycle 0 0) }
    s.cyclesNext 3 ∧ s.halted = false ∧ s.pc.toNat ≤ 4094 ∧ decodeWord s.wordAtPC = .error (.classF 0xF103) :=
  ⟨State.cyclesNext_of_all (by decide) 3, by decide⟩
theorem witness_Fetch_in_range : (cycleAt 0xFFE [] 0 0).pc.toNat = 4094 := by decide
theorem witness_Fetch_out_of_range :
    let s := cycleAt 0xFFF [] 0 0
    s.nextMove = .cycle 0 0 ∧ s.halted = false ∧ s.pc.toNat = 4095 := by decide
theorem witness_HaltedCycle :
    let s := { start [] with halted := true }
    s.nextMove = .cycle 0 0 ∧ s.halted = true := by decide
theorem witness_ResetMove :
    let s : State := { State.reset with host := [.reset], pc := 0x300 }
    s.nextMove = .reset ∧ s.cfg.resetV = .zero := by decide
theorem witness_LoadPort :
    let s := { State.reset with host := [.load 0xFFF 1] }
    let t := { s with started := true }
    s.nextMove = .load 0xFFF 1 ∧ s.started = false ∧ t.nextMove = .load 0xFFF 1 ∧ t.started = true := by decide
theorem witness_Boot_longest (b : Byte) :
    (List.replicate 3584 b).length ≤ 3584 ∧ ∃ moves, bootMoves (List.replicate 3584 b) = some moves ∧
      { State.reset with host := moves ++ [HostMove.cycle 0 0] }.host = moves ++ [HostMove.cycle 0 0] := by
  have h : (List.replicate 3584 b).length ≤ 3584 := le_of_eq List.length_replicate
  exact ⟨h, _, if_pos h, rfl⟩
theorem witness_Boot_too_long (b : Byte) : 3584 < (List.replicate 3585 b).length := by
  rw [List.length_replicate]
  decide
theorem witness_Ret : { start [] with sp := 1 }.sp ≠ 0#4 ∧ (start []).sp = 0#4 := by decide
theorem witness_Call : { start [] with sp := 14 }.sp ≠ 15#4 ∧ { start [] with sp := 15 }.sp = 15#4 := by decide
theorem witness_CallThenRet :
    (start []).sp ≠ 15#4 ∧ ∃ t u, exec (.callAddr 0x20A) (start []) = .next t ∧ KeepsStack t u ∧ u.pc = 0x20C :=
  ⟨by decide, _, State.jump _ 0x20C#16, rfl, ⟨rfl, fun _ => rfl⟩, rfl⟩
theorem witness_LogicOps :
    let s := start []
    (Instr.xorVxVy 15 2, s.reg 15 ^^^ s.reg 2) ∈ [(Instr.orVxVy 15 2, s.reg 15 ||| s.reg 2),
      (Instr.andVxVy 15 2, s.reg 15 &&& s.reg 2), (Instr.xorVxVy 15 2, s.reg 15 ^^^ s.reg 2)] ∧
    s.cfg.logicVF = .unchanged ∧ (withCfg (fun c => { c with logicVF := .zero }) s).cfg.logicVF = .zero := by decide
theorem witness_Subtractions :
    let s := regs [(1, 5), (2, 5)] (start [])
    let t := withCfg (fun c => { c with subFlag := .borrow }) s
    5 = (s.reg 1).toNat ∧ 5 = (s.reg 2).toNat ∧ s.cfg.subFlag = .noBorrow ∧
    5 = (t.reg 1).toNat ∧ 5 = (t.reg 2).toNat ∧ t.cfg.subFlag = .borrow := by decide
theorem witness_Shifts :
    let s := regs [(1, 5), (2, 8)] (start [])
    let t := withCfg (fun c => { c with shiftSrc := .vy }) s
    (s.cfg.shiftSrc = .vx ∧ 5 = (s.reg 1).toNat) ∧ t.cfg.shiftSrc = .vy ∧ 8 = (t.reg 2).toNat := by decide
theorem witness_IndexInstructions :
    let s := regs [(1, 2)] { start [] with i := 0xFFFF }
    (Instr.addIVx 1, 1) ∈
      [(Instr.ldIAddr 0, (0 : Addr12).toNat), (Instr.addIVx 1, (s.i.toNat + (s.reg 1).toNat) % 65536)] := by decide
theorem witness_Bcd : { start [] with i := 4093 }.i.toNat + 2 ≤ 4095 ∧ 4095 < { start [] with i := 4094 }.i.toNat + 2 := by
  decide
/-- The bounds of both block transfers; 16 registers from 4081 are one byte too many. -/
theorem witness_Blocks :
    let s := { start [] with i := 4080 }
    s.i.toNat + (15 : RegId).toNat ≤ 4095 ∧ s.cfg.memIdxI = .unchanged ∧
    (withCfg (fun c => { c with memIdxI := .advance }) s).cfg.memIdxI = .advance ∧
    4095 < { s with i := 4081 }.i.toNat + (15 : RegId).toNat := by decide
theorem witness_FetchSees :
    let s := { start [] with i := 4094 }
    1 ≤ (1 : RegId).toNat ∧ s.i.toNat + (1 : RegId).toNat ≤ 4095 ∧ ∃ t, exec (.ldMemVx 1) s = .next t :=
  ⟨by decide, by decide, exec_answers_next _ _⟩
theorem witness_Draw :
    let s := { start [] with i := 4095 }
    (s.i.toNat + (1 : Nibble).toNat - 1 ≤ 4095) ∧
    ((2 : Nibble) ≠ 0#4 ∧ 4095 < s.i.toNat + (2 : Nibble).toNat - 1) := by decide
/-- Both clauses on VF: a DRW that clears a pixel, and one that clears none. -/
theorem witness_Draw_flag :
    let s := withPixel 0 0 (sprite [0x80] (start []))
    (∃ t, exec (.drwVxVyNibble 0 1 1) s = .next t ∧
      ∃ p, s.disp.pixel p = true ∧ t.disp.pixel p = false) ∧
    (∃ t, exec (.drwVxVyNibble 0 1 0) s = .next t ∧ ∀ p, s.disp.pixel p = true → t.disp.pixel p = true) :=
  ⟨⟨_, rfl, ⟨0, 0⟩, by decide +kernel, by decide +kernel⟩, ⟨_, rfl, fun _ h => h⟩⟩
theorem witness_DrawingTwice :
    let s := sprite [0x80] (start [])
    (0 : RegId) ≠ regVF ∧ (1 : RegId) ≠ regVF ∧ s.i.toNat + (1 : Nibble).toNat - 1 ≤ 4095 := by decide
theorem witness_KeySkips :
    15 = ((regs [(1, 15)] (start [])).reg 1).toNat ∧ 15 ≤ 15 ∧ 16 = ((regs [(1, 16)] (start [])).reg 1).toNat := by
  decide
theorem witness_TimerInstructions :
    let s := cycleAt 0x200 [0xF3, 0x15, 0xF3, 0x18, 0xF3, 0x07] 0 0
    s.cycleNext ∧ s.halted = false ∧ s.pc.toNat ≤ 4094 ∧ decodeWord s.wordAtPC = .ok (.ldDTVx 3) ∧
    decodeWord (s.jump 0x202).wordAtPC = .ok (.ldSTVx 3) ∧ decodeWord (s.jump 0x204).wordAtPC = .ok (.ldVxDT 3) :=
  ⟨⟨0, 0, rfl⟩, by decide +kernel⟩
theorem witness_KeyWaitTakes :
    (start []).key = 0#16 ∧
    ({ start [] with key := 0x88 }.key.getLsbD 3 = true ∧
      ∀ j, j < 3 → { start [] with key := 0x88 }.key.getLsbD j = false) := by decide
theorem witness_KeyWaitBlocks :
    let s := { start [0xF1, 0x0A] with host := [.cycle 0 1, .cycle 0 2, .cycle 0x88 3] }
    s.halted = false ∧ s.pc.toNat ≤ 4094 ∧ decodeWord s.wordAtPC = .ok (.ldVxK 1) ∧
    s.host = [1, 2].map (fun r => .cycle 0#16 r) ++ .cycle 0x88 3 :: [] ∧
    (0x88#16).getLsbD 3 = true ∧ ∀ j, j < 3 → (0x88#16).getLsbD j = false := by decide
/-- A run of two cycles from the self-jump, for both counters. -/
theorem witness_Counters :
    loop.cyclesNext 2 ∧ (∀ p : Instr → Bool, p (.jpAddr 0x200) = false →
      ∀ j u, j < 2 → loop.run j = .next u → u.runsNone p) ∧ ∃ t, loop.run 2 = .next t ∧ t.halted = false := by
  refine ⟨State.cyclesNext_of_all (by decide) 2, ?_, run_of_seeRun (f := State.halted) (by decide +kernel)⟩
  intro p hp j u hj hu i hi
  have h : seeRun j loop (fun t => decodeWord t.wordAtPC) = some (.ok (.jpAddr 0x200)) := by
    have : j = 0 ∨ j = 1 := by omega
    rcases this with rfl | rfl <;> decide +kernel
  rw [seeRun_of_run _ hu, hi] at h
  injection h with h
  injection h with h
  rw [h]
  exact hp
/-- A state that meets the invariant, inside a call and at the top of the range of PC, and steps. -/
theorem witness_Invariant :
    let s := ({ start [] with pc := 0x10FE, sp := 1, started := true } : State).setSlot 1 4094
    Inv s ∧ ∃ t, step s = .next t :=
  ⟨{ memory := by decide, running := fun _ => ⟨rfl, rfl⟩, stopped := by decide, slots := by decide, slotZero := by decide,
     pcBound := by decide, noReport := fun _ => rfl, report := fun h => absurd rfl h },
   _, rfl⟩
theorem witness_OnlyReset :
    let s := { State.reset with halted := true, cause := 5, host := [.reset] }
    s.halted = true ∧ ∃ t, step s = .next t ∧ t.halted = false := ⟨rfl, _, rfl, rfl⟩
theorem witness_FaultsArePrecise :
    let s := start [0x00, 0xEE]
    s.cycleNext ∧ s.halted = false ∧ ∃ t, step s = .next t ∧ t.halted = true :=
  ⟨⟨0, 0, rfl⟩, rfl, step_of_see (by decide)⟩
theorem witness_FaultTable :
    (start []).halted = false ∧ (∃ t, exec .ret (start []) = .next t ∧ t.halted = true) ∧
    ∃ t, exec .cls (start []) = .next t := ⟨rfl, ⟨_, rfl, by decide⟩, ⟨_, rfl⟩⟩
theorem witness_Stores :
    let s := regs [(0, 157)] { start [] with i := 0x300 }
    (∃ t, exec (.ldBVx 0) s = .next t ∧ t.byteAt 0x302 ≠ s.byteAt 0x302) ∧
    (∃ t, exec (.ldMemVx 0) s = .next t ∧ t.byteAt 0x300 ≠ s.byteAt 0x300) :=
  ⟨⟨_, rfl, by decide +kernel⟩, ⟨_, rfl, by decide +kernel⟩⟩
theorem witness_Display :
    let s := withPixel 0 0 (start [])
    ∃ t, exec .cls s = .next t ∧ t.disp.pixel ⟨0, 0⟩ ≠ s.disp.pixel ⟨0, 0⟩ := ⟨_, rfl, by decide⟩
theorem witness_VF :
    ∃ t, exec (.ldVxByte 15 1) (start []) = .next t ∧ t.reg regVF ≠ (start []).reg regVF := ⟨_, rfl, by decide⟩
theorem witness_FlagWrites :
    writesFlag (start []).cfg (.addVxVy 15 1) = true ∧ (start []).halted = false ∧
    ∃ t, exec (.addVxVy 15 1) (start []) = .next t ∧ t.halted = false := ⟨rfl, rfl, _, rfl, rfl⟩
/-- One instruction for each clause of the writers of I, SP, the slots, DT and ST. -/
theorem witness_Writers :
    let s := { regs [(1, 2)] (start []) with pc := 0x200 }
    (∃ t, exec (.addIVx 1) s = .next t ∧ t.i ≠ s.i) ∧
    (∃ t, exec (.callAddr 0) s = .next t ∧ t.sp ≠ s.sp ∧ t.slot 1 ≠ s.slot 1) ∧
    (∃ t, exec (.ldDTVx 1) s = .next t ∧ t.dt ≠ s.dt) ∧ (∃ t, exec (.ldSTVx 1) s = .next t ∧ t.st ≠ s.st) :=
  ⟨⟨_, rfl, by decide⟩, ⟨_, rfl, by decide, by decide⟩, ⟨_, rfl, by decide⟩, ⟨_, rfl, by decide⟩⟩
theorem witness_WordPlaced : decodeWord 0xFFFF = .error (.classF 0xFFFF) ∧ decodeWord 0x00E0 = .ok .cls := by decide
theorem witness_NoStepChanges : ∃ t, step (start [0x00, 0xE0]) = .next t ∧ t.pc = 0x202 := step_of_see (by decide)
theorem witness_EarlierInputs : (start []).cycleNext := ⟨0, 0, rfl⟩
theorem witness_SelfJump : loop.finished ∧ loop.cyclesNext 4 :=
  ⟨⟨by decide, by decide, 0x200, by decide, by decide⟩, State.cyclesNext_of_all (by decide) 4⟩
theorem witness_SixteenthCall :
    let s := { start [0x22, 0x00] with host := List.replicate 16 (.cycle 0 0) }
    s.halted = false ∧ s.pc.toNat ≤ 4094 ∧ s.sp = 0#4 ∧ s.cyclesNext 16 ∧
    decodeWord s.wordAtPC = .ok (.callAddr 0x200) ∧ zext12 0x200 = s.pc :=
  ⟨by decide, by decide, by decide, State.cyclesNext_of_all (by decide) 16, by decide, by decide⟩

end Sys2Proof.Tests
end

/-! SUPPORT. The proof of the claim on spec/00_scope.md R6: a cycle, whatever it does, keeps what lies outside the core,
and the host's other two moves keep the parameters. -/

namespace Sys2Proof.Machine

theorem KeepsOutside.trans {s t u : State} (hst : KeepsOutside s t) (htu : KeepsOutside t u) : KeepsOutside s u := by
  obtain ⟨hkey, hrnd, hcfg, hhost, hstarted, hdrawn⟩ := hst
  obtain ⟨hkey', hrnd', hcfg', hhost', hstarted', hdrawn'⟩ := htu
  exact ⟨hkey'.trans hkey, hrnd'.trans hrnd, hcfg'.trans hcfg, hhost'.trans hhost, hstarted'.trans hstarted,
    hdrawn'.trans hdrawn⟩

theorem KeepsOutside.cfg_eq {s t : State} (h : KeepsOutside s t) : t.cfg = s.cfg := by
  obtain ⟨-, -, hcfg, -⟩ := h
  exact hcfg

theorem State.endCycle_keepsOutside (s : State) : KeepsOutside s s.endCycle := by
  unfold State.endCycle
  split <;> exact ⟨rfl, rfl, rfl, rfl, rfl, rfl⟩

/-- A cycle's body, in each of its four cases, keeps what no instruction touches: the inputs sampled at its start, the
parameters, the host's coming moves and the model's own fields. -/
theorem cycleBody_keepsOutside {s t : State} (h : cycleBody s = .next t) : KeepsOutside s t := by
  obtain ⟨-, hb⟩ | ⟨-, -, hb⟩ | ⟨-, -, -, hb⟩ | ⟨-, -, i, u, -, hu, hb⟩ := cycleBody_cases s
  all_goals obtain rfl := Host.Outcome.next.inj (h.symm.trans hb)
  -- halted, fetch fault, illegal word: each writes at most the status registers, the outputs and the timers
  case inl | inr.inl | inr.inr.inl => exact ⟨rfl, rfl, rfl, rfl, rfl, rfl⟩
  -- a legal word: the instruction, then the end of the cycle
  case inr.inr.inr => exact (exec_keepsOutside hu).trans u.endCycle_keepsOutside

/-- Settles O56, by the host's three moves: a cycle keeps all that lies outside the core, a reset is at the
parameters the machine has, and the load port writes none. -/
theorem noStepChangesTheParameters : Obligations.NoStepChangesTheParameters := by
  intro s t h
  obtain ⟨key, rnd, -, hbody⟩ | ⟨-, rfl⟩ | ⟨a, b, -, -, rfl⟩ := step_cases h
  · exact (cycleBody_keepsOutside hbody).cfg_eq.trans (s.beginCycle_cfg key rnd)
  · exact s.hostReset_cfg
  · exact s.hostLoad_cfg a b

end Sys2Proof.Machine

/-! SUPPORT. The family of the state: the reset, the load port, what an instruction can do to the state, said once, and
from it the writers of each register and the invariant. -/

namespace Sys2Proof.Machine

/-! ## The host's three moves (R185) -/

theorem step_of_cycle {s : State} {key : BitVec 16} {rnd : Byte} (h : s.nextMove = .cycle key rnd) :
    step s = cycleBody (s.beginCycle key rnd) := by
  simp only [step, h]

theorem step_of_reset {s : State} (h : s.nextMove = .reset) : step s = .next s.hostReset := by
  simp only [step, h]

theorem step_of_load {s : State} {a : Addr12} {b : Byte} (h : s.nextMove = .load a b) :
    step s = if s.started then .refused .loadAfterFirstCycle else .next (s.hostLoad a b) := by
  simp only [step, h]

/-! ## The state after a reset (R30) -/

/-- Above the FONT an unlisted address reads as 0 (R30, R41). -/
theorem unlisted_of_le {a : Nat} (h : 80 ≤ a) : unlisted a = 0#8 :=
  List.getD_eq_default _ _ h

/-- The reset contents of memory (R30): FONT at 0 to 79, zero above. -/
theorem read_resetMemory (c : Config) (a : Nat) :
    (resetMemory c).read a = if h : a < 80 then c.font[a] else 0#8 := by
  have hread : (resetMemory c).read a = (c.font.toList[a]?).getD (unlisted a) := by
    simp [resetMemory, read_storeBytes, Memory.read]
  rw [hread]
  split
  · next h => simp [h]
  · next h =>
    rw [List.getElem?_eq_none (by simpa using h)]
    exact unlisted_of_le (by omega)

/-- At the default FONT memory lists nothing after a reset: both memories are canonical and read the same. -/
theorem resetMemory_defaultConfig : resetMemory defaultConfig = [] := by
  refine eq_of_read_eq (resetMemory_wf defaultConfig) rfl fun a => ?_
  rw [read_resetMemory]
  split
  · next h => exact (List.getD_eq_getElem _ _ h).symm
  · next h => exact (unlisted_of_le (by omega)).symm

@[simp] theorem State.resetAt_slot (c : Config) (n : Nat) (k : BitVec 4) : (State.resetAt c n).slot k = 0#16 :=
  Vector.getElem_replicate _

@[simp] theorem State.resetAt_pixel (c : Config) (n : Nat) (p : Pos) : (State.resetAt c n).disp.pixel p = false :=
  pixel_blank p

theorem State.resetAt_reg (c : Config) (n : Nat) (r : RegId) (h : c.resetV = .zero) :
    (State.resetAt c n).reg r = 0#8 := by
  simp [State.reg, State.resetAt, resetRegs, h]

theorem resetIndex_of_zero (c : Config) (n : Nat) (h : c.resetV = .zero) : resetIndex c n = 0#16 := by
  simp [resetIndex, h]

/-- Settles O13: the reset move answers the reset state at the machine's parameters, piece by piece. -/
theorem resetMoveSetsEveryPiece : Obligations.ResetMoveSetsEveryPiece := fun s hm =>
  ⟨s.hostReset, step_of_reset hm, read_resetMemory s.cfg, rfl, rfl, rfl, rfl, State.resetAt_slot s.cfg s.drawn,
    State.resetAt_pixel s.cfg s.drawn, rfl, rfl, rfl, rfl,
    fun hz => ⟨fun r => State.resetAt_reg s.cfg s.drawn r hz, resetIndex_of_zero s.cfg s.drawn hz⟩, rfl, rfl, rfl⟩

/-- Settles O14, by the reset state at the default parameters, where `RESET_V` is zero. -/
theorem resetStateIsTheSpecs : Obligations.ResetStateIsTheSpecs :=
  ⟨resetMemory_defaultConfig, fun a ha => (read_resetMemory defaultConfig a).trans (dif_neg (by omega)), rfl, rfl,
    State.resetAt_slot defaultConfig 0, rfl, rfl, State.resetAt_pixel defaultConfig 0,
    fun r => State.resetAt_reg defaultConfig 0 r rfl, rfl, rfl, rfl, rfl⟩

/-! ## The load port and the inputs -/

/-- Settles O15: before the first cycle the move is a write of one byte of memory, after it the move is refused. -/
theorem loadPortWritesOneByteBeforeTheFirstCycle : Obligations.LoadPortWritesOneByteBeforeTheFirstCycle := by
  intro s a b hm
  have hstep := step_of_load hm
  refine ⟨fun hopen => ⟨s.hostLoad a b, ?_, read_write_self _ _ _, fun c hc => read_write_ne _ _ _ _ (by omega),
    fun _ _ => rfl, rfl, rfl, ⟨rfl, fun _ => rfl⟩, ⟨rfl, rfl⟩, fun _ => rfl, ⟨rfl, rfl, rfl⟩, rfl, rfl, hopen, rfl⟩,
    fun hclosed => ?_⟩
  · rw [hstep, hopen]; rfl
  · rw [hstep, hclosed]; rfl

/-- Settles O57: the start of a cycle overwrites both fields, and the next move depends on neither. -/
theorem earlierInputsHaveNoEffect : Obligations.EarlierInputsHaveNoEffect := by
  rintro s key rnd ⟨k, r, hm⟩
  have hm' : State.nextMove { s with key := key, rnd := rnd } = .cycle k r := hm
  rw [step_of_cycle hm, step_of_cycle hm']
  rfl

/-! ## What an instruction can do -/

/-- The kinds of change an instruction makes to the state, each with what the instructions of its kind share. -/
inductive ExecEffect (s : State) : Instr → State → Prop
  /-- a fatal fault (R155) -/
  | fault (i : Instr) (f : FatalFault) : ExecEffect s i (s.enterFault f)
  /-- LD Vx, K while no key is down (R144) -/
  | blocked (x : RegId) : ExecEffect s (.ldVxK x) s
  /-- a skip (R94 to R97, R141, R142) -/
  | skip (i : Instr) (c : Bool) (hflag : writesFlag s.cfg i = false) : ExecEffect s i (s.skipIf c)
  /-- JP, whose target is at most 0xFFF + 0xFF (R92, R98) -/
  | jump (i : Instr) (w : Word) (hw : w.toNat ≤ 0x10FE) (hflag : writesFlag s.cfg i = false) :
    ExecEffect s i (s.jump w)
  /-- RET (R91) -/
  | ret : ExecEffect s .ret { s.jump (s.slot s.sp + 2#16) with sp := s.sp - 1#4 }
  /-- CALL (R93) -/
  | call (nnn : Addr12) (hsp : s.sp ≠ 15#4) :
    ExecEffect s (.callAddr nnn) (({ s with sp := s.sp + 1#4 }.setSlot (s.sp + 1#4) s.pc).jump (zext12 nnn))
  /-- a result without a flag (R101) -/
  | result (i : Instr) (x : RegId) (r : Byte) (hflag : writesFlag s.cfg i = false) (hdest : namesVF i = (x == regVF)) :
    ExecEffect s i (s.writeResult x r)
  /-- a result and a flag (R100) -/
  | resultFlag (i : Instr) (x : RegId) (r : Byte) (c : Bool) (hflag : writesFlag s.cfg i = true) :
    ExecEffect s i (s.writeResultFlag x r c)
  /-- LD I, ADD I and LD F (R121 to R123) -/
  | index (i : Instr) (w : Word) (hi : (∃ nnn, i = .ldIAddr nnn) ∨ ∃ x, i = .addIVx x ∨ i = .ldFVx x) :
    ExecEffect s i (s.setIndex w).advance
  /-- LD B (R124) -/
  | digits (x : RegId) : ExecEffect s (.ldBVx x) (s.storeBytes (s.effAddr 0) (decimalDigits (s.reg x))).advance
  /-- LD [I], Vx (R125) -/
  | blockStore (x : RegId) :
    ExecEffect s (.ldMemVx x) ((s.storeBytes (s.effAddr 0) (s.regsUpTo x)).setIndex (s.blockIndex x)).advance
  /-- LD Vx, [I] (R126) -/
  | blockLoad (x : RegId) :
    ExecEffect s (.ldVxMem x)
      ({ s with v := loadRegs s.v 0 (s.bytesAt (s.effAddr 0) (blockCount x)) }.setIndex (s.blockIndex x)).advance
  /-- CLS (R131) -/
  | clear : ExecEffect s .cls { s with disp := Display.blank }.advance
  /-- DRW (R132) -/
  | draw (x y : RegId) (n : Nibble) (d : Display) (c : Bool) :
    ExecEffect s (.drwVxVyNibble x y n)
      ({ s with disp := d, out := { s.out with redraw := true } }.setFlag c).advance
  /-- LD DT (R146) -/
  | delay (x : RegId) : ExecEffect s (.ldDTVx x) { s with dt := s.reg x }.advance
  /-- LD ST (R147) -/
  | sound (x : RegId) : ExecEffect s (.ldSTVx x) { s with st := s.reg x }.advance

section
variable {s t : State} {i : Instr}

/-- OR, AND and XOR are a result, with the flag 0 at `LOGIC_VF = zero` (R104 to R106). -/
theorem writeLogic_effect (x : RegId) (r : Byte) (hflag : writesFlag s.cfg i = (s.cfg.logicVF == .zero))
    (hdest : namesVF i = (x == regVF)) : ExecEffect s i (s.writeLogic x r) := by
  cases hl : s.cfg.logicVF with
  | unchanged => rw [s.writeLogic_unchanged x r hl]; exact .result i x r (by rw [hflag, hl]; rfl) hdest
  | zero => rw [s.writeLogic_zero x r hl]; exact .resultFlag i x r false (by rw [hflag, hl]; rfl)

/-- The sum of an address and a byte, not masked (R98), is at most 0x10FE. -/
theorem indexedTarget_le (nnn : Addr12) (b : Byte) : (zext12 nnn + zext8 b).toNat ≤ 0x10FE := by
  simp only [BitVec.toNat_add, BitVec.toNat_setWidth]
  omega

theorem zext12_le (nnn : Addr12) : (zext12 nnn).toNat ≤ 0xFFF := by
  rw [BitVec.toNat_setWidth]
  omega

/-- An instruction that raises its fault where a condition holds (R91, R93, R141). -/
theorem effect_of_guard {c : Prop} [Decidable c] {f : FatalFault} {u : State}
    (h : (if c then raise f s else .next u) = .next t) (hu : ¬c → ExecEffect s i u) : ExecEffect s i t := by
  split at h <;> cases h
  · exact .fault i f
  · next hc => exact hu hc

/-- An instruction that raises the fault of its range check, where there is one (R44, R45). -/
theorem effect_of_rangeFault {o : Option FatalFault} {u : State}
    (h : (match o with | some f => raise f s | none => .next u) = .next t) (hu : ExecEffect s i u) :
    ExecEffect s i t := by
  cases o <;> cases h
  · exact hu
  · exact .fault ..

theorem execLdVxK_effect {x : RegId} (h : execLdVxK x s = .next t) : ExecEffect s (.ldVxK x) t := by
  unfold execLdVxK at h
  split at h <;> cases h
  · exact .blocked x
  · exact .result _ _ _ rfl rfl

end

/-- Everything an instruction can do (R85): each of the 34 is of its kind. -/
theorem exec_effect {s t : State} : ∀ {i : Instr}, exec i s = .next t → ExecEffect s i t
  | .cls, rfl => .clear
  | .ret, h => effect_of_guard h fun _ => .ret
  | .jpAddr nnn, rfl => .jump _ _ ((zext12_le nnn).trans (by decide)) rfl
  | .callAddr nnn, h => effect_of_guard h fun hsp => .call nnn hsp
  | .seVxByte .., rfl | .sneVxByte .., rfl | .seVxVy .., rfl | .sneVxVy .., rfl => .skip _ _ rfl
  | .ldVxByte .., rfl | .addVxByte .., rfl | .ldVxVy .., rfl | .rndVxByte .., rfl | .ldVxDT _, rfl =>
    .result _ _ _ rfl rfl
  | .orVxVy .., rfl | .andVxVy .., rfl | .xorVxVy .., rfl => writeLogic_effect _ _ rfl rfl
  | .addVxVy .., rfl | .subVxVy .., rfl | .shrVx .., rfl | .subnVxVy .., rfl | .shlVx .., rfl =>
    .resultFlag _ _ _ _ rfl
  | .ldIAddr nnn, rfl => .index _ _ (.inl ⟨nnn, rfl⟩)
  | .jpVxAddr x nnn, rfl => .jump _ _ (indexedTarget_le nnn (s.reg x)) rfl
  | .drwVxVyNibble x y n, h => effect_of_rangeFault h (.draw x y n _ _)
  | .skpVx _, h | .sknpVx _, h => effect_of_guard h fun _ => .skip _ _ rfl
  | .ldVxK _, h => execLdVxK_effect h
  | .ldDTVx x, rfl => .delay x
  | .ldSTVx x, rfl => .sound x
  | .addIVx x, rfl => .index _ _ (.inr ⟨x, .inl rfl⟩)
  | .ldFVx x, rfl => .index _ _ (.inr ⟨x, .inr rfl⟩)
  | .ldBVx x, h => effect_of_rangeFault h (.digits x)
  | .ldMemVx x, h => effect_of_rangeFault h (.blockStore x)
  | .ldVxMem x, h => effect_of_rangeFault h (.blockLoad x)

/-! ## The writers of I, SP, the stack slots, DT and ST (R25) -/

/-- A block transfer moves I only at `MEMIDX_I = advance` (R125, R126). -/
theorem State.memIdxI_of_blockIndex_ne {s : State} {x : RegId} (h : s.blockIndex x ≠ s.i) :
    s.cfg.memIdxI = .advance := by
  cases hm : s.cfg.memIdxI with
  | advance => rfl
  | unchanged => exact absurd (by simp [State.blockIndex, hm]) h

section
variable {s t : State} {i : Instr} (he : ExecEffect s i t)
include he

theorem ExecEffect.index_writers (hne : t.i ≠ s.i) :
    (∃ nnn, i = .ldIAddr nnn) ∨ (∃ x, i = .addIVx x ∨ i = .ldFVx x) ∨
      (s.cfg.memIdxI = .advance ∧ ∃ x, i = .ldMemVx x ∨ i = .ldVxMem x) := by
  cases he
  case index hi => exact hi.imp_right .inl
  case blockStore x => exact .inr (.inr ⟨State.memIdxI_of_blockIndex_ne hne, x, .inl rfl⟩)
  case blockLoad x => exact .inr (.inr ⟨State.memIdxI_of_blockIndex_ne hne, x, .inr rfl⟩)
  all_goals exact absurd rfl hne

theorem ExecEffect.sp_writers (hne : t.sp ≠ s.sp) : i = .ret ∨ ∃ nnn, i = .callAddr nnn := by
  cases he
  case ret => exact .inl rfl
  case call nnn _ => exact .inr ⟨nnn, rfl⟩
  all_goals exact absurd rfl hne

theorem ExecEffect.slot_writers {k : BitVec 4} (hne : t.slot k ≠ s.slot k) : ∃ nnn, i = .callAddr nnn := by
  cases he
  case call nnn _ => exact ⟨nnn, rfl⟩
  all_goals exact absurd rfl hne

theorem ExecEffect.dt_writers (hne : t.dt ≠ s.dt) : ∃ x, i = .ldDTVx x := by
  cases he
  case delay x => exact ⟨x, rfl⟩
  all_goals exact absurd rfl hne

theorem ExecEffect.st_writers (hne : t.st ≠ s.st) : ∃ x, i = .ldSTVx x := by
  cases he
  case sound x => exact ⟨x, rfl⟩
  all_goals exact absurd rfl hne

end

/-- Settles O55, by the kinds of change an instruction makes. -/
theorem eachRegisterHasItsWriters : Obligations.EachRegisterHasItsWriters := fun _ _ _ h =>
  have he := exec_effect h
  ⟨he.index_writers, he.sp_writers, fun _ => he.slot_writers, he.dt_writers, he.st_writers⟩

/-! ## The flag register (R12, R13) -/

/-- A block load reaches VF only at x = 15 (R126). -/
theorem blockLoad_reg_regVF {s : State} {x : RegId} {a : Nat} (hx : x ≠ regVF) :
    (loadRegs s.v 0 (s.bytesAt a (blockCount x)))[15] = s.v[15] := by
  have hlt : x.toNat < 15 := by
    have hne : x.toNat ≠ 15 := fun e => hx (BitVec.eq_of_toNat_eq e)
    have := x.isLt
    omega
  rw [loadRegs_getElem, if_pos (by omega), List.getElem?_eq_none (by rw [State.bytesAt_length, blockCount]; omega)]
  rfl

/-- Settles O53, by the kinds of change an instruction makes: a result, a flag and a block load alone write VF. -/
theorem vfChangesOnlyAsFlagOrDestination : Obligations.VFChangesOnlyAsFlagOrDestination := by
  intro i s t h hne
  cases exec_effect h
  case resultFlag hflag => exact .inl hflag
  case draw => exact .inl rfl
  case result x r hflag hdest =>
    by_cases hx : regVF = x
    · exact .inr (by rw [hdest, hx]; exact beq_self_eq_true x)
    · exact absurd (by simp [hx]) hne
  case blockLoad x =>
    by_cases hx : x = regVF
    · exact .inr (beq_iff_eq.2 hx)
    · exact absurd (blockLoad_reg_regVF hx) hne
  all_goals exact absurd rfl hne

theorem flagByte_eq_zero_or_one (c : Bool) : flagByte c = 0#8 ∨ flagByte c = 1#8 := by
  cases c
  · exact .inl rfl
  · exact .inr rfl

/-- Settles O54: an instruction that writes the flag and raises no fault is a result with a flag or a DRW. -/
theorem flagWritesAreZeroOrOne : Obligations.FlagWritesAreZeroOrOne := by
  intro i s t hwrites _ h hrun
  cases exec_effect h
  case fault => cases hrun
  case resultFlag x r c _ =>
    rw [State.reg_writeResultFlag, if_pos rfl]
    exact flagByte_eq_zero_or_one c
  case draw c =>
    rw [State.advance_reg, State.reg_setFlag, if_pos rfl]
    exact flagByte_eq_zero_or_one c
  case index hi => obtain ⟨_, rfl⟩ | ⟨_, rfl | rfl⟩ := hi <;> cases hwrites
  case skip hflag | jump hflag | result hflag _ => cases hflag.symm.trans hwrites
  all_goals cases hwrites

/-! ## The invariant -/

theorem FatalFault.code_bounds (f : FatalFault) : 1 ≤ f.code.toNat ∧ f.code.toNat ≤ 6 := by
  cases f <;> simp [FatalFault.code]

theorem FatalFault.code_ne_zero (f : FatalFault) : f.code ≠ 0#3 := by
  cases f <;> simp [FatalFault.code]

/-- The state after a reset meets the invariant, at any parameters. -/
theorem Inv.resetAt (c : Config) (n : Nat) : Inv (State.resetAt c n) where
  memory := resetMemory_wf c
  running _ := ⟨rfl, rfl⟩
  stopped h := nomatch h
  slots k := by simp
  slotZero := State.resetAt_slot c n 0#4
  pcBound := show progBase.toNat ≤ 0x10FE by decide
  noReport _ := rfl
  report h _ := absurd rfl h

section
variable {s t : State} {i : Instr} (hinv : Inv s)
include hinv

theorem Inv.beginCycle (key : BitVec 16) (rnd : Byte) : Inv (s.beginCycle key rnd) :=
  { hinv with noReport := fun _ => rfl, report := fun h => absurd rfl h }

theorem Inv.hostLoad (a : Addr12) (b : Byte) : Inv (s.hostLoad a b) :=
  { hinv with memory := hostLoad_wf hinv.memory a b }

theorem Inv.enterFault (f : FatalFault) : Inv (s.enterFault f) :=
  { hinv with
    running := fun h => nomatch h
    stopped := fun _ => f.code_bounds
    noReport := fun h => absurd h f.code_ne_zero
    report := fun _ _ => ⟨rfl, rfl, rfl⟩ }

theorem Inv.reportDecodeFailure (w : Word) : Inv (s.reportDecodeFailure w) :=
  { hinv with noReport := fun h => (nomatch h), report := fun _ h => absurd rfl h }

theorem Inv.tick : Inv s.tick := { hinv with memory := hinv.memory }

theorem Inv.endCycle : Inv s.endCycle := by
  unfold State.endCycle
  split
  · exact hinv
  · exact hinv.tick

/-- An instruction fetched from memory keeps the invariant: PC moves on by at most 4, or to the target of a JP or CALL,
or past the address RET takes from the stack (R16); a CALL pushes PC, and never to slot 0 (R19). -/
theorem Inv.exec_next (hpc : s.pc.toNat ≤ 4094) (h : exec i s = .next t) : Inv t := by
  have hmem : t.mem.wf = true := exec_keepsMemoryForm hinv.memory h
  have hadvance : (s.pc + 2#16).toNat ≤ 0x10FE := by bv_omega
  cases exec_effect h
  case fault f => exact hinv.enterFault f
  case blocked => exact hinv
  case skip c _ =>
    exact { hinv with pcBound := show (s.pc + if c then 4#16 else 2#16).toNat ≤ 0x10FE by split <;> bv_omega }
  case jump hw _ => exact { hinv with pcBound := hw }
  case ret =>
    have hslot : (s.slot s.sp).toNat ≤ 4094 := hinv.slots s.sp
    exact { hinv with pcBound := show (s.slot s.sp + 2#16).toNat ≤ 0x10FE by bv_omega }
  case call nnn hsp =>
    have hpush : 0#4 ≠ s.sp + 1#4 := by bv_omega
    exact { hinv with
      slots := fun k => by
        simp only [State.jump_slot, State.slot_setSlot]
        split
        · exact hpc
        · exact hinv.slots k
      slotZero := by
        simp only [State.jump_slot, State.slot_setSlot, if_neg hpush]
        exact hinv.slotZero
      pcBound := (zext12_le nnn).trans (by decide) }
  -- the other instructions write nothing else the invariant speaks of, and PC moves on by 2
  all_goals exact { hinv with memory := hmem, pcBound := hadvance }

/-- A cycle's body keeps the invariant, in each of its four cases. -/
theorem Inv.cycleBody_next (h : cycleBody s = .next t) : Inv t := by
  obtain ⟨-, hb⟩ | ⟨-, -, hb⟩ | ⟨-, -, -, hb⟩ | ⟨-, hpc, i, u, -, hu, hb⟩ := cycleBody_cases s
  all_goals obtain rfl := Host.Outcome.next.inj (h.symm.trans hb)
  · exact hinv
  · exact hinv.enterFault _
  · exact (hinv.reportDecodeFailure _).tick
  · exact (hinv.exec_next hpc hu).endCycle

end

/-- Settles O45: the reset state is the one at the default parameters. -/
theorem resetMeetsTheInvariant : Obligations.ResetMeetsTheInvariant := Inv.resetAt defaultConfig 0

/-- Settles O46, by the host's three moves: each keeps the invariant, and the reset establishes it. -/
theorem everyStepKeepsTheInvariant : Obligations.EveryStepKeepsTheInvariant := by
  intro s t hinv h
  obtain ⟨key, rnd, -, hbody⟩ | ⟨-, rfl⟩ | ⟨a, b, -, -, rfl⟩ := step_cases h
  · exact (hinv.beginCycle key rnd).cycleBody_next hbody
  · exact { Inv.resetAt s.cfg s.drawn with memory := resetMemory_wf s.cfg }
  · exact hinv.hostLoad a b

end Sys2Proof.Machine

/-! SUPPORT. The family of the memory: the fetch and its range check, what a store writes and what it leaves, and the
fetch of bytes just stored. -/

namespace Sys2Proof.Machine

/-! ## The fetch (R42, R83) -/

/-- Fault entry (R155) leaves the state that `FaultEntered` speaks of. -/
theorem State.enterFault_faultEntered (s : State) (f : FatalFault) : FaultEntered f.code f.value s (s.enterFault f) :=
  ⟨rfl, rfl, rfl, rfl, ⟨fun _ => rfl, fun _ _ => rfl, rfl, rfl, ⟨rfl, fun _ => rfl⟩, ⟨rfl, rfl⟩, fun _ => rfl⟩,
    rfl, rfl, rfl, rfl, rfl, rfl⟩

/-- Settles O11: the two sides of the range check are the laws of the fetch; the cycle enters the fault the fetch
raises. -/
theorem fetchIsBigEndianAndRangeChecked : Obligations.FetchIsBigEndianAndRangeChecked := by
  refine ⟨fun s hpc => ⟨_, s.fetch_of_le hpc, toNat_wordOfBytes _ _⟩, fun s key rnd hm hrun hpc => ?_⟩
  refine ⟨_, ?_, (s.beginCycle key rnd).enterFault_faultEntered (.fetchRange s.pc)⟩
  rw [step_of_cycle hm]
  exact cycleBody_fetchFault _ hrun hpc

/-! ## The stores (R43, R48) -/

/-- A store changes no byte outside those it is given (R43). -/
theorem State.bounds_of_storeBytes_ne {s : State} {a b : Nat} {bs : List Byte}
    (hne : (s.storeBytes a bs).byteAt b ≠ s.byteAt b) : a ≤ b ∧ b < a + bs.length := by
  by_contra hout
  exact hne (read_storeBytes_outside s.mem a b bs (by omega))

/-- Settles O51, by the kinds of change an instruction makes: LD B stores three bytes from I, LD [I], Vx stores
`x + 1`, and no other kind stores. -/
theorem onlyTheStoresWriteMemory : Obligations.OnlyTheStoresWriteMemory := by
  intro i s t a h hne
  cases exec_effect h
  case digits x =>
    obtain ⟨hlo, hhi⟩ : s.i.toNat ≤ a ∧ a < s.i.toNat + 3 := State.bounds_of_storeBytes_ne hne
    exact .inl ⟨x, rfl, hlo, by omega⟩
  case blockStore x =>
    obtain ⟨hlo, hhi⟩ : s.i.toNat ≤ a ∧ a < s.i.toNat + (s.regsUpTo x).length := State.bounds_of_storeBytes_ne hne
    rw [State.regsUpTo_length, blockCount] at hhi
    exact .inr ⟨x, rfl, hlo, by omega⟩
  all_goals exact absurd rfl hne

/-- LD [I], Vx where its last byte is in range (R45, R125). -/
theorem exec_ldMemVx_of_le {s : State} {x : RegId} (h : s.i.toNat + x.toNat ≤ 4095) :
    exec (.ldMemVx x) s =
      .next ((s.storeBytes (s.effAddr 0) (s.regsUpTo x)).setIndex (s.blockIndex x)).advance := by
  have hnone : rangeFault .write s.i (blockCount x) = none :=
    (rangeFault_eq_none .write s.i _).2 (.inr (by rw [blockCount]; omega))
  simp only [exec, execLdMemVx, hnone]

/-- A block store leaves `V[k]` at I + k, for each k up to x (R125). -/
theorem State.byteAt_blockStore (s : State) {x : RegId} {k : Nat} (hk : k ≤ x.toNat) :
    (s.storeBytes (s.effAddr 0) (s.regsUpTo x)).byteAt (s.i.toNat + k) = s.reg (BitVec.ofNat 4 k) := by
  have hlen : k < (s.regsUpTo x).length := by
    rw [State.regsUpTo_length, blockCount]
    omega
  exact (read_storeBytes_inside s.mem s.i.toNat k _ hlen).trans (s.regsUpTo_getElem x k hlen)

/-! ## The fetch of bytes just stored (R54) -/

/-- Settles O34: the block store leaves V0 at I and V1 at I + 1, and the fetch at I reads these two bytes. -/
theorem fetchSeesTheBytesStored : Obligations.FetchSeesTheBytesStored := by
  intro s t x hx hrange h
  obtain rfl := Host.Outcome.next.inj ((exec_ldMemVx_of_le hrange).symm.trans h)
  rw [State.fetch_of_le _ (show s.i.toNat ≤ 4094 by omega)]
  have hhi := s.byteAt_blockStore (x := x) (Nat.zero_le _)
  have hlo := s.byteAt_blockStore hx
  exact congrArg Except.ok (congrArg₂ wordOfBytes hhi hlo)

end Sys2Proof.Machine

/-! SUPPORT. The family of the encoding: decoding undoes encoding, what a word decodes to, the words rejected, and the
rows of the opcode table. -/

namespace Sys2Proof

/-! ## Decoding the word of an instruction (R61, R66) -/

/-- Decoding the word the encoder gives a well-formed instruction: the fields read back are those written. -/
theorem decodeWord_encode {i : Instr} (hwf : i.wf = true) : decodeWord (encode i) = .ok i := by
  cases i
  case cls | ret => decide
  case jpVxAddr x nnn =>
    have hx : x = topDigit nnn := by simpa [Instr.wf] using hwf
    simp [encode, decodeWord, hx]
  -- the classes with a secondary dispatch
  case ldVxVy | orVxVy | andVxVy | xorVxVy | addVxVy | subVxVy | shrVx | subnVxVy | shlVx =>
    simp [encode, decodeWord, decodeClass8]
  case skpVx | sknpVx => simp [encode, decodeWord, decodeClassE]
  case ldVxDT | ldVxK | ldDTVx | ldSTVx | addIVx | ldFVx | ldBVx | ldMemVx | ldVxMem =>
    simp [encode, decodeWord, decodeClassF]
  -- the classes without one
  all_goals simp [encode, decodeWord]

/-- Decoding two bytes and any bytes after them decodes the word of the two (R42, R60). -/
theorem decodeBytes_of_decodeWord {w : Word} {i : Instr} (h : decodeWord w = .ok i) (rest : List Byte) :
    decodeBytes (highByte w :: lowByte w :: rest) = .ok (i, rest) := by
  simp [decodeBytes, h]

/-- Settles O1: the word is read back by its fields, and the two bytes by the word they lay out. -/
theorem decodeOfEncodeIsTheInstruction : Obligations.DecodeOfEncodeIsTheInstruction := fun _ rest hwf =>
  ⟨decodeWord_encode hwf, decodeBytes_of_decodeWord (decodeWord_encode hwf) rest⟩

/-! ## The word a decoded instruction encodes to (R65, R67): the formats of a word's own fields -/

section
variable {w : Word} {op : Nibble}

theorem formatA_of_fields {nnn : Addr12} (hop : opField w = op) (hn : nnnField w = nnn) : formatA op nnn = w := by
  rw [← hop, ← hn, formatA_fields]

theorem formatXK_of_fields {kk : Byte} (hop : opField w = op) (hk : kkField w = kk) :
    formatXK op (xField w) kk = w := by
  rw [← hop, ← hk, formatXK_fields]

theorem formatXYN_of_fields {n : Nibble} (hop : opField w = op) (hn : nField w = n) :
    formatXYN op (xField w) (yField w) n = w := by
  rw [← hop, ← hn, formatXYN_fields]

theorem formatXYN_and_ignored (op : Nibble) (x y : RegId) (n : Nibble) :
    formatXYN op x y n &&& 0xFFF0#16 = formatXYN op x y 0#4 := by
  apply BitVec.eq_of_getLsbD_eq
  intro i hi
  simp only [formatXYN, BitVec.getLsbD_and, BitVec.getLsbD_append]
  interval_cases i <;> simp

/-- Classes 5 and 9: the encoder writes 0 for the ignored nibble (R67). -/
theorem formatXYN_zero_of_opField (hop : opField w = op) :
    formatXYN op (xField w) (yField w) 0x0#4 = w &&& 0xFFF0#16 := by
  rw [← formatXYN_and_ignored op _ _ (nField w), formatXYN_of_fields hop rfl]

end

/-- The sixteen primary classes (R64). -/
theorem nibble_cases (n : Nibble) :
    n = 0x0#4 ∨ n = 0x1#4 ∨ n = 0x2#4 ∨ n = 0x3#4 ∨ n = 0x4#4 ∨ n = 0x5#4 ∨ n = 0x6#4 ∨ n = 0x7#4 ∨ n = 0x8#4 ∨
      n = 0x9#4 ∨ n = 0xA#4 ∨ n = 0xB#4 ∨ n = 0xC#4 ∨ n = 0xD#4 ∨ n = 0xE#4 ∨ n = 0xF#4 := by
  decide +revert

/-- What the primary dispatch makes of a word (R64, R65): a secondary dispatch, or an instruction at once, whose word is
the whole word or, in the classes 5 and 9, the word without the nibble they ignore. -/
inductive PrimaryDispatch (w : Word) : Prop
  | class0 (hop : opField w = 0x0#4) (h : decodeWord w = decodeClass0 w)
  | class8 (hop : opField w = 0x8#4) (h : decodeWord w = decodeClass8 w)
  | classE (hop : opField w = 0xE#4) (h : decodeWord w = decodeClassE w)
  | classF (hop : opField w = 0xF#4) (h : decodeWord w = decodeClassF w)
  | ignoring (i : Instr) (hop : opField w = 0x5#4 ∨ opField w = 0x9#4) (h : decodeWord w = .ok i) (hwf : i.wf = true)
      (henc : encode i = w &&& 0xFFF0#16)
  | whole (i : Instr) (hop : opField w ∉ [0x0#4, 0x5#4, 0x8#4, 0x9#4, 0xE#4, 0xF#4]) (h : decodeWord w = .ok i)
      (hwf : i.wf = true) (henc : encode i = w)

theorem primaryDispatch (w : Word) : PrimaryDispatch w := by
  obtain h | h | h | h | h | h | h | h | h | h | h | h | h | h | h | h := nibble_cases (opField w)
  · exact .class0 h (by simp [decodeWord, h])
  · exact .whole (.jpAddr (nnnField w)) (by simp [h]) (by simp [decodeWord, h]) rfl
      (formatA_of_fields h rfl)
  · exact .whole (.callAddr (nnnField w)) (by simp [h]) (by simp [decodeWord, h]) rfl
      (formatA_of_fields h rfl)
  · exact .whole (.seVxByte (xField w) (kkField w)) (by simp [h]) (by simp [decodeWord, h]) rfl
      (formatXK_of_fields h rfl)
  · exact .whole (.sneVxByte (xField w) (kkField w)) (by simp [h]) (by simp [decodeWord, h]) rfl
      (formatXK_of_fields h rfl)
  · exact .ignoring (.seVxVy (xField w) (yField w)) (.inl h) (by simp [decodeWord, h]) rfl (formatXYN_zero_of_opField h)
  · exact .whole (.ldVxByte (xField w) (kkField w)) (by simp [h]) (by simp [decodeWord, h]) rfl
      (formatXK_of_fields h rfl)
  · exact .whole (.addVxByte (xField w) (kkField w)) (by simp [h]) (by simp [decodeWord, h]) rfl
      (formatXK_of_fields h rfl)
  · exact .class8 h (by simp [decodeWord, h])
  · exact .ignoring (.sneVxVy (xField w) (yField w)) (.inr h) (by simp [decodeWord, h]) rfl (formatXYN_zero_of_opField h)
  · exact .whole (.ldIAddr (nnnField w)) (by simp [h]) (by simp [decodeWord, h]) rfl
      (formatA_of_fields h rfl)
  · exact .whole (.jpVxAddr (xField w) (nnnField w)) (by simp [h]) (by simp [decodeWord, h])
      (by simp [Instr.wf, topDigit_nnnField]) (formatA_of_fields h rfl)
  · exact .whole (.rndVxByte (xField w) (kkField w)) (by simp [h]) (by simp [decodeWord, h]) rfl
      (formatXK_of_fields h rfl)
  · exact .whole (.drwVxVyNibble (xField w) (yField w) (nField w)) (by simp [h]) (by simp [decodeWord, h]) rfl
      (formatXYN_of_fields h rfl)
  · exact .classE h (by simp [decodeWord, h])
  · exact .classF h (by simp [decodeWord, h])

/-! ## The secondary dispatches (R65): chains of tests of one field -/

section
variable {c : Prop} [Decidable c] {a i : Instr} {r : Except DecodeFailure Instr}

/-- What a chain of tests answers encodes to `w` if what its first test answers and what its rest answers do. -/
theorem encode_of_ite {w : Word} (hwf : a.wf = true) (henc : c → encode a = w)
    (hrest : r = .ok i → i.wf = true ∧ encode i = w) :
    (if c then .ok a else r) = .ok i → i.wf = true ∧ encode i = w := by
  split
  next hc =>
    intro h
    cases h
    exact ⟨hwf, henc hc⟩
  next => exact hrest

/-- A chain of tests rejects if the first test fails and the rest rejects. -/
theorem ite_error_iff : (∃ e, (if c then .ok a else r) = .error e) ↔ ¬c ∧ ∃ e, r = .error e := by
  split <;> simp [*]

end

section
variable {w : Word} {i : Instr}

/-! An instruction that a secondary dispatch answers encodes to the word dispatched. -/

theorem encode_of_decodeClass0 (hop : opField w = 0x0#4) : decodeClass0 w = .ok i → i.wf = true ∧ encode i = w := by
  unfold decodeClass0
  iterate 2 refine encode_of_ite rfl (formatA_of_fields hop) ?_
  exact nofun

theorem encode_of_decodeClass8 (hop : opField w = 0x8#4) : decodeClass8 w = .ok i → i.wf = true ∧ encode i = w := by
  unfold decodeClass8
  iterate 9 refine encode_of_ite rfl (formatXYN_of_fields hop) ?_
  exact nofun

theorem encode_of_decodeClassE (hop : opField w = 0xE#4) : decodeClassE w = .ok i → i.wf = true ∧ encode i = w := by
  unfold decodeClassE
  iterate 2 refine encode_of_ite rfl (formatXK_of_fields hop) ?_
  exact nofun

theorem encode_of_decodeClassF (hop : opField w = 0xF#4) : decodeClassF w = .ok i → i.wf = true ∧ encode i = w := by
  unfold decodeClassF
  iterate 9 refine encode_of_ite rfl (formatXK_of_fields hop) ?_
  exact nofun

end

/-- Settles O2, by the primary dispatch: only the classes 5 and 9 lose a nibble. -/
theorem encodeOfDecodeIsTheCanonicalWord : Obligations.EncodeOfDecodeIsTheCanonicalWord := by
  intro w i h
  cases primaryDispatch w with
  | class0 hop hd => simpa [hop] using encode_of_decodeClass0 hop (hd.symm.trans h)
  | class8 hop hd => simpa [hop] using encode_of_decodeClass8 hop (hd.symm.trans h)
  | classE hop hd => simpa [hop] using encode_of_decodeClassE hop (hd.symm.trans h)
  | classF hop hd => simpa [hop] using encode_of_decodeClassF hop (hd.symm.trans h)
  | ignoring j hop hd hwf henc =>
    obtain rfl : j = i := Except.ok.inj (hd.symm.trans h)
    exact ⟨hwf, henc.trans (if_pos hop).symm⟩
  | whole j hop hd hwf henc =>
    obtain rfl : j = i := Except.ok.inj (hd.symm.trans h)
    simp only [List.mem_cons, not_or] at hop
    obtain ⟨-, h5, -, h9, -⟩ := hop
    exact ⟨hwf, henc.trans (if_neg (by simp [h5, h9])).symm⟩

/-! ## The words rejected (R65, R68) -/

section
variable (w : Word)

theorem decodeClass0_error_iff : (∃ e, decodeClass0 w = .error e) ↔ nnnField w ∉ [0x0E0#12, 0x0EE#12] := by
  simp [decodeClass0, ite_error_iff]

theorem decodeClass8_error_iff : (∃ e, decodeClass8 w = .error e) ↔
    nField w ∈ [0x8#4, 0x9#4, 0xA#4, 0xB#4, 0xC#4, 0xD#4, 0xF#4] := by
  have hrest : ∀ n : Nibble, n ∈ [0x8#4, 0x9#4, 0xA#4, 0xB#4, 0xC#4, 0xD#4, 0xF#4] ↔
      n ∉ [0x0#4, 0x1#4, 0x2#4, 0x3#4, 0x4#4, 0x5#4, 0x6#4, 0x7#4, 0xE#4] := by decide
  rw [hrest]
  simp [decodeClass8, ite_error_iff]

theorem decodeClassE_error_iff : (∃ e, decodeClassE w = .error e) ↔ kkField w ∉ [0x9E#8, 0xA1#8] := by
  simp [decodeClassE, ite_error_iff]

theorem decodeClassF_error_iff : (∃ e, decodeClassF w = .error e) ↔
    kkField w ∉ [0x07#8, 0x0A#8, 0x15#8, 0x18#8, 0x1E#8, 0x29#8, 0x33#8, 0x55#8, 0x65#8] := by
  simp [decodeClassF, ite_error_iff]

end

/-- Settles O4: each class with a secondary dispatch rejects what its field does not name, and no other class rejects
a word. -/
theorem illegalWordsAreThoseOfTheTable : Obligations.IllegalWordsAreThoseOfTheTable := by
  intro w
  cases primaryDispatch w with
  | class0 hop hd => simpa [hd, hop] using decodeClass0_error_iff w
  | class8 hop hd => simpa [hd, hop] using decodeClass8_error_iff w
  | classE hop hd => simpa [hd, hop] using decodeClassE_error_iff w
  | classF hop hd => simpa [hd, hop] using decodeClassF_error_iff w
  | ignoring i hop hd => obtain hop | hop := hop <;> simp [hd, hop]
  | whole i hop hd => simp_all

/-! ## The rows of the opcode table (R66) -/

/-- A row's mask keeps the fields its class dispatches on (R64, R65). -/
def classMask (op : Nibble) : Word :=
  if op = 0x0#4 then 0xFFFF#16
  else if op = 0x8#4 then 0xF00F#16
  else if op = 0xE#4 ∨ op = 0xF#4 then 0xF0FF#16
  else 0xF000#16

theorem Instr.mask_eq_classMask (i : Instr) : i.mask = classMask (opField i.matchBits) := by
  cases i <;> simp only [Instr.mask, Instr.matchBits] <;> rfl

/-! Words that agree under a mask agree in the fields the mask keeps. -/

section
variable {w m v : Word}

theorem opField_of_and_eq (hm : opField m = 0xF#4) (h : w &&& m = v) : opField w = opField v := by
  rw [← h, opField, opField, BitVec.extractLsb'_and, ← opField, ← opField, hm]
  exact BitVec.and_allOnes.symm

theorem nField_of_and_eq (h : w &&& 0xF00F#16 = v) : nField w = nField v := by
  rw [← h, nField, nField, BitVec.extractLsb'_and]
  exact BitVec.and_allOnes.symm

theorem kkField_of_and_eq (h : w &&& 0xF0FF#16 = v) : kkField w = kkField v := by
  rw [← h, kkField, kkField, BitVec.extractLsb'_and]
  exact BitVec.and_allOnes.symm

end

open Laws.TableRow in
/-- The law of every row, for a word the encoder builds. -/
theorem encode_and_mask (i : Instr) : encode i &&& i.mask = i.matchBits := by
  cases i
  exacts [cls, ret, jpAddr _, callAddr _, seVxByte _ _, sneVxByte _ _, seVxVy _ _, ldVxByte _ _, addVxByte _ _,
    ldVxVy _ _, orVxVy _ _, andVxVy _ _, xorVxVy _ _, addVxVy _ _, subVxVy _ _, shrVx _ _, subnVxVy _ _, shlVx _ _,
    sneVxVy _ _, ldIAddr _, jpVxAddr _ _, rndVxByte _ _, drwVxVyNibble _ _ _, skpVx _, sknpVx _, ldVxDT _, ldVxK _,
    ldDTVx _, ldSTVx _, addIVx _, ldFVx _, ldBVx _, ldMemVx _, ldVxMem _]

section
variable {w : Word} {i : Instr}

/-- A word that meets a row is of the row's class. -/
theorem opField_of_row (h : w &&& i.mask = i.matchBits) : opField w = opField i.matchBits := by
  refine opField_of_and_eq ?_ h
  cases i <;> simp only [Instr.mask] <;> rfl

/-- A word that meets a row decodes to it: past the class, the mask keeps the field of the secondary dispatch. -/
theorem decodeWord_of_row (h : w &&& i.mask = i.matchBits) :
    ∃ j, decodeWord w = .ok j ∧ j.matchBits = i.matchBits := by
  have hop : opField w = i.matchBits.extractLsb' 12 4 := opField_of_row h
  cases i
  case cls | ret =>
    obtain rfl : w = _ := BitVec.and_allOnes.symm.trans h
    exact ⟨_, rfl, rfl⟩
  case ldVxVy | orVxVy | andVxVy | xorVxVy | addVxVy | subVxVy | shrVx | subnVxVy | shlVx =>
    have hn : nField w = BitVec.extractLsb' 0 4 _ := nField_of_and_eq h
    simp [decodeWord, decodeClass8, hop, hn, Instr.matchBits]
  case skpVx | sknpVx =>
    have hk : kkField w = BitVec.extractLsb' 0 8 _ := kkField_of_and_eq h
    simp [decodeWord, decodeClassE, hop, hk, Instr.matchBits]
  case ldVxDT | ldVxK | ldDTVx | ldSTVx | addIVx | ldFVx | ldBVx | ldMemVx | ldVxMem =>
    have hk : kkField w = BitVec.extractLsb' 0 8 _ := kkField_of_and_eq h
    simp [decodeWord, decodeClassF, hop, hk, Instr.matchBits]
  all_goals simp [decodeWord, hop, Instr.matchBits]

/-- A word meets the row it decodes to: its canonical word does, and the row's mask drops the ignored nibble. -/
theorem and_mask_of_decodeWord (h : decodeWord w = .ok i) : w &&& i.mask = i.matchBits := by
  obtain ⟨-, henc⟩ := encodeOfDecodeIsTheCanonicalWord w i h
  have hrow := encode_and_mask i
  rw [henc] at hrow
  split_ifs at hrow with hop
  · have hclass : opField w = opField (w &&& 0xFFF0#16) := opField_of_and_eq rfl rfl
    have hmask : i.mask = 0xF000#16 := by
      rw [i.mask_eq_classMask, ← opField_of_row hrow, ← hclass]
      obtain hop | hop := hop <;> rw [hop] <;> rfl
    rw [hmask] at hrow ⊢
    exact (BitVec.and_assoc w _ _).symm.trans hrow
  · exact hrow

end

/-- Settles O3: the match of a row fixes its class, and with it the mask. -/
theorem wordDecodesToTheRowItMatches : Obligations.WordDecodesToTheRowItMatches := by
  refine fun w i => ⟨decodeWord_of_row, fun ⟨j, hd, hj⟩ => ?_⟩
  have hmask : i.mask = j.mask := by rw [i.mask_eq_classMask, ← hj, ← j.mask_eq_classMask]
  rw [hmask, ← hj]
  exact and_mask_of_decodeWord hd

/-- Settles O5, by running the decoder on the six words. -/
theorem wordsOfTheSpecDecode : Obligations.WordsOfTheSpecDecode := by
  unfold Obligations.WordsOfTheSpecDecode
  decide

end Sys2Proof

/-! SUPPORT. The family of the cycle: its start, its three ends (a halted core, a fault, the tick), the word placed for
the next cycle, and the two kinds of cycle in which a core idles for ever. -/

namespace Sys2Proof.Machine

/-! ## The start of a cycle and the halted core (R80 to R82) -/

theorem State.beginCycle_keepsMachine (s : State) (key : BitVec 16) (rnd : Byte) :
    KeepsMachine s (s.beginCycle key rnd) :=
  ⟨fun _ => rfl, fun _ _ => rfl, rfl, rfl, ⟨rfl, fun _ => rfl⟩, ⟨rfl, rfl⟩, fun _ => rfl⟩

theorem State.beginCycle_keepsStatus (s : State) (key : BitVec 16) (rnd : Byte) :
    KeepsStatus s (s.beginCycle key rnd) := ⟨rfl, rfl, rfl⟩

/-- Settles O7: the start of a cycle writes the two inputs and the outputs, and no state of the core. -/
theorem cycleStartsWithSampledInputs : Obligations.CycleStartsWithSampledInputs := fun s key rnd =>
  ⟨s.beginCycle_key key rnd, s.beginCycle_rnd key rnd, s.beginCycle_out key rnd, s.beginCycle_keepsMachine key rnd,
    s.beginCycle_keepsStatus key rnd⟩

/-- Settles O12: a cycle of a halted core goes no further than its start. -/
theorem haltedCycleChangesNothing : Obligations.HaltedCycleChangesNothing := fun s key rnd hm hhalted =>
  ⟨s.beginCycle key rnd, (step_of_cycle hm).trans (cycleBody_halted _ hhalted), s.beginCycle_keepsMachine key rnd,
    s.beginCycle_keepsStatus key rnd, s.beginCycle_out key rnd⟩

/-! ## A cycle of a running core (R80, R83 to R88) -/

theorem State.endCycle_of_running {s : State} (h : s.halted = false) : s.endCycle = s.tick := by
  simp [State.endCycle, h]

section
variable {s : State} {key : BitVec 16} {rnd : Byte} (hm : s.nextMove = .cycle key rnd) (hrun : s.halted = false)
include hm hrun

theorem step_of_legal (hpc : s.pc.toNat ≤ 4094) {i : Instr} (hd : decodeWord s.wordAtPC = .ok i) {t : State}
    (ht : exec i (s.beginCycle key rnd) = .next t) : step s = .next t.endCycle :=
  (step_of_cycle hm).trans (cycleBody_exec (s.beginCycle key rnd) hrun hpc i hd t ht)

theorem step_of_illegal (hpc : s.pc.toNat ≤ 4094) {e : DecodeFailure} (hd : decodeWord s.wordAtPC = .error e) :
    step s = .next ((s.beginCycle key rnd).reportDecodeFailure s.wordAtPC).tick :=
  (step_of_cycle hm).trans (cycleBody_illegal (s.beginCycle key rnd) hrun hpc e hd)

end

/-- Settles O6: the execute step answers every instruction, and the end of the cycle is the tick unless it faulted. -/
theorem stepRunsTheDecodedInstruction : Obligations.StepRunsTheDecodedInstruction := by
  intro s key rnd i hm hrun hpc hd
  obtain ⟨t, ht⟩ := exec_answers_next i (s.beginCycle key rnd)
  exact ⟨t, ht, step_of_legal hm hrun hpc hd ht⟩

/-! ## The word placed for the next cycle (R184) -/

theorem tableWord_toNat (w : Word) : tableWord 16 w.toNat = w := by
  rw [tableWord, Nat.mod_eq_of_lt w.isLt, BitVec.ofNat_toNat, BitVec.setWidth_eq]

theorem State.fetchBase_le (s : State) : s.fetchBase.toNat ≤ 4094 := by
  unfold State.fetchBase
  split
  · assumption
  · decide

theorem State.withFetchWord_wordAtPC (s : State) (w : Word) : (s.withFetchWord 16 w.toNat).wordAtPC = w := by
  have hhi : (s.withFetchWord 16 w.toNat).byteAt s.fetchBase.toNat = highByte (tableWord 16 w.toNat) :=
    read_storeBytes_inside s.mem _ 0 _ (by simp)
  have hlo : (s.withFetchWord 16 w.toNat).byteAt (s.fetchBase.toNat + 1) = lowByte (tableWord 16 w.toNat) :=
    read_storeBytes_inside s.mem _ 1 _ (by simp)
  rw [tableWord_toNat] at hhi hlo
  exact (congrArg₂ wordOfBytes hhi hlo).trans (wordOfBytes_bytes w)

/-- The moves left begin with a cycle; where none is left, the next move is a cycle under free inputs (log 2). -/
theorem State.withFetchWord_cycleNext (s : State) (nbits w : Nat) : (s.withFetchWord nbits w).cycleNext := by
  unfold State.cycleNext State.nextMove
  cases hhost : (s.withFetchWord nbits w).host with
  | nil => exact ⟨_, _, rfl⟩
  | cons m ms =>
    have hcycle : m.isCycle = true := by
      have := List.head?_dropWhile_not (fun m : HostMove => !m.isCycle) s.host
      rw [show s.host.dropWhile (fun m => !m.isCycle) = m :: ms from hhost] at this
      simpa using this
    cases m with
    | cycle key rnd => exact ⟨key, rnd, rfl⟩
    | reset | load => cases hcycle

/-- Settles O60: the state is running, its next move is a cycle and the word at its PC is the one placed, so it steps as
at any legal word. -/
theorem wordPlacedIsTheNextInstruction : Obligations.WordPlacedIsTheNextInstruction := by
  intro s w i hd
  obtain ⟨key, rnd, hm⟩ := s.withFetchWord_cycleNext 16 w.toNat
  have hd' : decodeWord (s.withFetchWord 16 w.toNat).wordAtPC = .ok i := by rw [s.withFetchWord_wordAtPC, hd]
  obtain ⟨t, ht, hstep⟩ := stepRunsTheDecodedInstruction _ key rnd i hm rfl s.fetchBase_le hd'
  exact ⟨_, key, rnd, t, rfl, hm, ht, hstep⟩

/-! ## The tick (R86) -/

/-- An instruction of a running core halts it only by a fault. -/
theorem exec_running_or_fault {i : Instr} {s t : State} (hrun : s.halted = false) (h : exec i s = .next t) :
    t.halted = false ∨ ∃ f, t = s.enterFault f := by
  cases exec_effect h
  case fault f => exact .inr ⟨f, rfl⟩
  all_goals exact .inl hrun

/-- What the tick of a running core's cycle is the tick of: what the instruction left, or the report of an illegal
word. -/
def TicksFrom (s : State) (key : BitVec 16) (rnd : Byte) (t : State) : Prop :=
  (∃ i, decodeWord s.wordAtPC = .ok i ∧ exec i (s.beginCycle key rnd) = .next t) ∨
    ((∃ e, decodeWord s.wordAtPC = .error e) ∧ t = (s.beginCycle key rnd).reportDecodeFailure s.wordAtPC)

/-- A cycle of a running core enters a fault, or it ends in a tick and the core still runs. -/
theorem cycle_faults_or_ticks {s u : State} {key : BitVec 16} {rnd : Byte} (hm : s.nextMove = .cycle key rnd)
    (hrun : s.halted = false) (h : step s = .next u) :
    (∃ f, u = (s.beginCycle key rnd).enterFault f) ∨
      (u.halted = false ∧ ∃ t, u = t.tick ∧ TicksFrom s key rnd t) := by
  rw [step_of_cycle hm] at h
  obtain ⟨hhalted, -⟩ | ⟨-, -, hb⟩ | ⟨-, -, he, hb⟩ | ⟨-, -, i, t, hd, ht, hb⟩ :=
    cycleBody_cases (s.beginCycle key rnd)
  · exact absurd hhalted (by simp [hrun])
  all_goals obtain rfl := Host.Outcome.next.inj (h.symm.trans hb)
  · exact .inl ⟨_, rfl⟩
  · exact .inr ⟨hrun, _, rfl, .inr ⟨he, rfl⟩⟩
  · obtain hrun' | ⟨f, rfl⟩ := exec_running_or_fault (s := s.beginCycle key rnd) hrun ht
    · rw [State.endCycle_of_running hrun']
      exact .inr ⟨hrun', t, rfl, .inl ⟨i, hd, ht⟩⟩
    · exact .inl ⟨f, rfl⟩

/-- Settles O8: the tick's arithmetic is that of the counters, and whether the core runs at its end tells a cycle that
ticked from one that faulted. -/
theorem tickEndsEveryRunningCycle : Obligations.TickEndsEveryRunningCycle := by
  refine ⟨fun s => ⟨countDown_toNat s.dt, countDown_toNat s.st, ?_, fun _ => rfl, fun _ _ => rfl, rfl, rfl,
    ⟨rfl, fun _ => rfl⟩, fun _ => rfl, ⟨rfl, rfl, rfl⟩, rfl, rfl, rfl, rfl, rfl, rfl⟩, fun s u key rnd hm hrun h => ?_⟩
  · simp only [State.tick_out, BitVec.toNat_pos, BitVec.pos_iff_ne_zero]
  · obtain ⟨f, rfl⟩ | ⟨hrun', ht⟩ := cycle_faults_or_ticks hm hrun h
    · exact ⟨fun _ => ⟨⟨rfl, rfl⟩, rfl⟩, nofun⟩
    · exact ⟨fun hhalted => absurd (hrun'.symm.trans hhalted) Bool.false_ne_true, fun _ => ht⟩

/-! ## Idling (R88, R89) -/

/-- From `s` to `t` nothing but the counters, the inputs, the outputs and the host's moves has changed, and both
counters are down by `n`, floor at zero. -/
structure Idles (n : Nat) (s t : State) : Prop where
  memory : KeepsMemory s t
  regs : KeepsRegsBut [] s t
  index : t.i = s.i
  pc : t.pc = s.pc
  stack : KeepsStack s t
  display : KeepsDisplay s t
  status : KeepsStatus s t
  dt : t.dt.toNat = s.dt.toNat - n
  st : t.st.toNat = s.st.toNat - n

theorem Idles.refl (s : State) : Idles 0 s s :=
  ⟨fun _ => rfl, fun _ _ => rfl, rfl, rfl, ⟨rfl, fun _ => rfl⟩, fun _ => rfl, ⟨rfl, rfl, rfl⟩, rfl, rfl⟩

theorem Idles.trans {m n : Nat} {s t u : State} (hst : Idles m s t) (htu : Idles n t u) : Idles (m + n) s u where
  memory a := (htu.memory a).trans (hst.memory a)
  regs r hr := (htu.regs r hr).trans (hst.regs r hr)
  index := htu.index.trans hst.index
  pc := htu.pc.trans hst.pc
  stack := ⟨htu.stack.1.trans hst.stack.1, fun k => (htu.stack.2 k).trans (hst.stack.2 k)⟩
  display p := (htu.display p).trans (hst.display p)
  status := by
    obtain ⟨hhalted, hcause, htval⟩ := hst.status
    obtain ⟨hhalted', hcause', htval'⟩ := htu.status
    exact ⟨hhalted'.trans hhalted, hcause'.trans hcause, htval'.trans htval⟩
  dt := by rw [htu.dt, hst.dt, Nat.sub_sub]
  st := by rw [htu.st, hst.st, Nat.sub_sub]

/-- The tick is one idle step (R86). -/
theorem Idles.tick (s : State) : Idles 1 s s.tick :=
  { Idles.refl s with dt := countDown_toNat s.dt, st := countDown_toNat s.st }

section
variable {n : Nat} {s t : State} (h : Idles n s t)
include h

theorem Idles.halted_eq : t.halted = s.halted := by
  obtain ⟨hhalted, -, -⟩ := h.status
  exact hhalted

theorem Idles.wordAtPC_eq : t.wordAtPC = s.wordAtPC := by
  rw [State.wordAtPC, h.pc, h.memory, h.memory, State.wordAtPC]

theorem Idles.finished (hs : s.finished) : t.finished := by
  unfold State.finished
  rwa [h.halted_eq, h.pc, h.wordAtPC_eq]

end

/-- A running core on an illegal word reports it and idles (R88, R152). -/
theorem step_idles_of_illegal {s : State} (hc : s.cycleNext) (hrun : s.halted = false) (hpc : s.pc.toNat ≤ 4094)
    {e : DecodeFailure} (hd : decodeWord s.wordAtPC = .error e) :
    ∃ t, step s = .next t ∧ Idles 1 s t ∧ t.out.report = 7#3 ∧ t.out.reportInfo = s.wordAtPC := by
  obtain ⟨key, rnd, hm⟩ := hc
  have hreport : Idles 0 s ((s.beginCycle key rnd).reportDecodeFailure s.wordAtPC) := { Idles.refl s with }
  exact ⟨_, step_of_illegal hm hrun hpc hd, hreport.trans (.tick _), rfl, rfl⟩

/-- A running core on a jump to itself idles (R89, R92). -/
theorem step_idles_of_finished {s : State} (hc : s.cycleNext) (hs : s.finished) :
    ∃ t, step s = .next t ∧ Idles 1 s t := by
  obtain ⟨key, rnd, hm⟩ := hc
  obtain ⟨hrun, hpc, nnn, hd, htarget⟩ := hs
  have hjump : Idles 0 s ((s.beginCycle key rnd).jump (zext12 nnn)) := { Idles.refl s with pc := htarget }
  have hstep := step_of_legal hm hrun hpc hd (t := (s.beginCycle key rnd).jump (zext12 nnn)) rfl
  rw [State.endCycle_of_running (s := (s.beginCycle key rnd).jump (zext12 nnn)) hrun] at hstep
  exact ⟨_, hstep, hjump.trans (.tick _)⟩

theorem step_of_cycle_host {s t : State} (hc : s.cycleNext) (h : step s = .next t) : t.host = s.host.tail := by
  obtain ⟨key, rnd, hm⟩ := hc
  rw [step_of_cycle hm] at h
  obtain ⟨-, -, -, hhost, -⟩ := cycleBody_keepsOutside h
  exact hhost

/-- The induction over a run of cycles: what holds at the start and is carried over each cycle, which is counted, holds
at the end. -/
theorem State.run_of_cycles {P : Nat → State → Prop}
    (hcycle : ∀ j s, s.cycleNext → P j s → ∃ t, step s = .next t ∧ P (j + 1) t) (n : Nat) :
    ∀ {j : Nat} {s : State}, s.cyclesNext n → P j s → ∃ t, s.run n = .next t ∧ P (j + n) t := by
  induction n with
  | zero => exact fun _ hs => ⟨_, rfl, hs⟩
  | succ n ih =>
    intro j s hcs hs
    have hc := State.cyclesNext_head hcs
    obtain ⟨t, hstep, ht⟩ := hcycle j s hc hs
    obtain ⟨u, hrun, hu⟩ := ih (State.cyclesNext_tail hcs (step_of_cycle_host hc hstep)) ht
    exact ⟨u, (State.run_succ n s t hstep).trans hrun, by rwa [Nat.add_right_comm] at hu⟩

/-- `j` cycles after `s`, on an illegal word: the core has idled, and reports the word once a cycle has run. -/
def ReportsAfter (s : State) (j : Nat) (t : State) : Prop :=
  Idles j s t ∧ (0 < j → t.out.report = 7#3 ∧ t.out.reportInfo = s.wordAtPC)

/-- Settles O10, by induction over the cycles: an idle step leaves the core running on the same illegal word. -/
theorem decodeFailureRepeatsForEver : Obligations.DecodeFailureRepeatsForEver := by
  intro k s e hcs hrun hpc hd
  have hcycle : ∀ j t, t.cycleNext → ReportsAfter s j t → ∃ u, step t = .next u ∧ ReportsAfter s (j + 1) u := by
    rintro j t hc ⟨hidle, -⟩
    obtain ⟨u, hstep, hidle', hreport⟩ := step_idles_of_illegal hc (hidle.halted_eq.trans hrun)
      (by rwa [hidle.pc]) (e := e) (by rwa [hidle.wordAtPC_eq])
    rw [hidle.wordAtPC_eq] at hreport
    exact ⟨u, hstep, hidle.trans hidle', fun _ => hreport⟩
  obtain ⟨t, hrun', hidle, hreport⟩ := State.run_of_cycles hcycle k hcs ⟨.refl s, fun h => absurd h (Nat.lt_irrefl 0)⟩
  rw [Nat.zero_add] at hidle hreport
  exact ⟨t, hrun', hreport, hidle.dt, hidle.st, hidle.memory, hidle.regs, hidle.index, hidle.pc, hidle.stack,
    hidle.display, hidle.status⟩

/-- Settles O58, by induction over the cycles: an idle step leaves the core on the same jump to itself. -/
theorem selfJumpKeepsEverythingButTheTimers : Obligations.SelfJumpKeepsEverythingButTheTimers := by
  intro n s hs hcs
  have hcycle : ∀ j t, t.cycleNext → Idles j s t → ∃ u, step t = .next u ∧ Idles (j + 1) s u := by
    intro j t hc hidle
    obtain ⟨u, hstep, hidle'⟩ := step_idles_of_finished hc (hidle.finished hs)
    exact ⟨u, hstep, hidle.trans hidle'⟩
  obtain ⟨t, hrun, hidle⟩ := State.run_of_cycles hcycle n hcs (.refl s)
  rw [Nat.zero_add] at hidle
  exact ⟨t, hrun, hidle.finished hs, hidle.memory, hidle.regs, hidle.index, hidle.pc, hidle.stack, hidle.display,
    hidle.status, hidle.dt, hidle.st⟩

end Sys2Proof.Machine

/-! SUPPORT. The family of control transfer: the jumps and the skips, which write PC alone, and the discipline of the
call stack (spec/41_flow.md R90 to R98). -/

namespace Sys2Proof.Machine

/-! ## PC alone (R92, R94 to R98) -/

theorem State.jump_keepsAllButRegs (s : State) (w : Word) : KeepsAllButRegs [] s (s.jump w) :=
  ⟨fun _ => rfl, fun _ _ => rfl, rfl, ⟨rfl, fun _ => rfl⟩, ⟨rfl, rfl⟩, fun _ => rfl, ⟨rfl, rfl, rfl⟩, rfl,
    rfl, rfl, rfl, rfl, rfl, rfl⟩

theorem leavesPC_of_jump {i : Instr} {s : State} {w : Word} (h : exec i s = .next (s.jump w)) : LeavesPC i w s :=
  ⟨_, h, s.jump_pc w, s.jump_keepsAllButRegs w⟩

theorem State.skipIf_eq_jump (s : State) (p : Prop) [Decidable p] :
    s.skipIf (decide p) = s.jump (s.pc + if p then 4#16 else 2#16) := by
  simp only [State.skipIf, State.jump, decide_eq_true_eq]

/-- A skip is a jump past the next instruction or to it (R90). -/
theorem leavesPC_of_skipIf {i : Instr} {s : State} {p : Prop} [Decidable p]
    (h : exec i s = .next (s.skipIf (decide p))) : LeavesPC i (s.pc + if p then 4#16 else 2#16) s :=
  leavesPC_of_jump (s.skipIf_eq_jump p ▸ h)

/-- A skip on a condition that is a negation (R95, R97). -/
theorem leavesPC_of_skipIf_not {i : Instr} {s : State} {p : Prop} [Decidable p]
    (h : exec i s = .next (s.skipIf (decide ¬p))) : LeavesPC i (s.pc + if p then 2#16 else 4#16) s :=
  ite_not p 4#16 2#16 ▸ leavesPC_of_skipIf h

/-- Settles O20: JP is a jump to its address immediate. -/
theorem jpSetsPC : Obligations.JpSetsPC := by
  intro s nnn
  rw [BitVec.ofNat_toNat]
  exact leavesPC_of_jump rfl

/-- Settles O21: JP Vx, addr is a jump to a sum of words, which is that of the numbers. -/
theorem jpWithOffsetAddsTheRegister : Obligations.JpWithOffsetAddsTheRegister := by
  intro s x nnn
  rw [BitVec.ofNat_add, BitVec.ofNat_toNat, BitVec.ofNat_toNat]
  exact leavesPC_of_jump rfl

/-- Settles O22: SE skips on its condition, SNE on the condition's negation. -/
theorem skipsAdvanceByFourOrTwo : Obligations.SkipsAdvanceByFourOrTwo := fun _ _ _ _ =>
  ⟨leavesPC_of_skipIf rfl, leavesPC_of_skipIf_not rfl, leavesPC_of_skipIf rfl, leavesPC_of_skipIf_not rfl⟩

/-! ## The call stack (R91, R93) -/

theorem State.slot_setSlot_same (s : State) (k : BitVec 4) (w : Word) : (s.setSlot k w).slot k = w :=
  (s.slot_setSlot k w k).trans (if_pos rfl)

theorem exec_ret_of_not_empty {s : State} (h : s.sp ≠ 0#4) :
    exec .ret s = .next { s.jump (s.slot s.sp + 2#16) with sp := s.sp - 1#4 } := if_neg h

theorem exec_ret_of_empty {s : State} (h : s.sp = 0#4) : exec .ret s = raise .stackUnderflow s := if_pos h

theorem exec_callAddr_of_not_full {s : State} (h : s.sp ≠ 15#4) (nnn : Addr12) :
    exec (.callAddr nnn) s =
      .next (({ s with sp := s.sp + 1#4 }.setSlot (s.sp + 1#4) s.pc).jump (zext12 nnn)) := if_neg h

theorem exec_callAddr_of_full {s : State} (h : s.sp = 15#4) (nnn : Addr12) :
    exec (.callAddr nnn) s = raise .stackOverflow s := if_pos h

/-- An instruction that raises a fault raises its code and its value (R151, R155). -/
theorem raisesFault_of_raise {i : Instr} {s : State} {f : FatalFault} (h : exec i s = raise f s) :
    RaisesFault i f.code f.value.toNat s :=
  ⟨_, f.value, h, rfl, s.enterFault_faultEntered f⟩

/-- The frame of an instruction that writes no more than PC, SP and the call stack. -/
def KeepsAllButFlow (s t : State) : Prop :=
  KeepsMemory s t ∧ KeepsRegsBut [] s t ∧ t.i = s.i ∧ KeepsTimers s t ∧ KeepsDisplay s t ∧ KeepsStatus s t ∧
  t.out = s.out ∧ KeepsOutside s t

theorem keepsAllButFlow (s : State) (pc : Word) (sp : BitVec 4) (stack : Vector Word 16) :
    KeepsAllButFlow s { s with pc := pc, sp := sp, stack := stack } :=
  ⟨fun _ => rfl, fun _ _ => rfl, rfl, ⟨rfl, rfl⟩, fun _ => rfl, ⟨rfl, rfl, rfl⟩, rfl, rfl, rfl, rfl, rfl, rfl, rfl⟩

/-- Settles O17: on a stack that is not empty SP - 1 does not wrap, and PC + 2 is taken modulo 65536. -/
theorem retPopsAndStepsPastTheCall : Obligations.RetPopsAndStepsPastTheCall := by
  refine fun s => ⟨fun hsp => ?_, fun hsp => raisesFault_of_raise (exec_ret_of_empty hsp)⟩
  have hpop : (s.sp - 1#4).toNat = s.sp.toNat - 1 := by bv_omega
  exact ⟨_, exec_ret_of_not_empty hsp, BitVec.toNat_add _ _, hpop, fun _ => rfl, keepsAllButFlow s ..⟩

/-- Settles O18: on a stack that is not full SP + 1 does not wrap, and only the slot it names is written. -/
theorem callPushesItsOwnAddress : Obligations.CallPushesItsOwnAddress := by
  refine fun s nnn => ⟨fun hsp => ?_, fun hsp => raisesFault_of_raise (exec_callAddr_of_full hsp nnn)⟩
  have hpush : (s.sp + 1#4).toNat = s.sp.toNat + 1 := by bv_omega
  have htarget : (zext12 nnn).toNat = nnn.toNat := BitVec.toNat_setWidth_of_le (by decide)
  refine ⟨_, exec_callAddr_of_not_full hsp nnn, htarget, hpush, State.slot_setSlot_same .., fun k hk => ?_,
    keepsAllButFlow s ..⟩
  exact (State.slot_setSlot ..).trans (if_neg hk)

/-- Settles O19: the slot SP names after the CALL holds the call site, and RET's SP - 1 undoes CALL's SP + 1. -/
theorem callThenRetReturnsPastTheCallSite : Obligations.CallThenRetReturnsPastTheCallSite := by
  intro s t u nnn hroom hcall ⟨husp, huslot⟩
  obtain rfl := Host.Outcome.next.inj ((exec_callAddr_of_not_full hroom nnn).symm.trans hcall)
  have hsp : u.sp = s.sp + 1#4 := husp
  have hsite : u.slot u.sp = s.pc := by
    rw [huslot, hsp]
    exact State.slot_setSlot_same ..
  have hne : u.sp ≠ 0#4 := by bv_omega
  refine ⟨_, exec_ret_of_not_empty hne, congrArg (· + 2#16) hsite, ?_⟩
  calc u.sp - 1#4 = s.sp + 1#4 - 1#4 := by rw [hsp]
    _ = s.sp := BitVec.add_sub_cancel ..

end Sys2Proof.Machine

/-! SUPPORT. The family of load, arithmetic, logic, shift and random: an instruction that writes a result, or a result
and then the flag, and what each flag is as a number (spec/42_alu.md R100 to R112). -/

namespace Sys2Proof.Machine

/-! ## The two shapes of a result (R100, R101) -/

theorem State.writeResult_keepsAllButRegs (s : State) (x : RegId) (r : Byte) :
    KeepsAllButRegs [x] s (s.writeResult x r) :=
  ⟨fun _ => rfl, fun y hy => (s.reg_writeResult x r y).trans (if_neg (by simpa using hy)), rfl, ⟨rfl, fun _ => rfl⟩,
    ⟨rfl, rfl⟩, fun _ => rfl, ⟨rfl, rfl, rfl⟩, rfl, rfl, rfl, rfl, rfl, rfl, rfl⟩

theorem State.writeResultFlag_keepsAllButRegs (s : State) (x : RegId) (r : Byte) (c : Bool) :
    KeepsAllButRegs [x, regVF] s (s.writeResultFlag x r c) := by
  have hregs : KeepsRegsBut [x, regVF] s (s.writeResultFlag x r c) := fun y hy => by
    obtain ⟨hx, hf⟩ : y ≠ x ∧ y ≠ regVF := by simpa using hy
    rw [State.reg_writeResultFlag, if_neg hf, if_neg hx]
  exact ⟨fun _ => rfl, hregs, rfl, ⟨rfl, fun _ => rfl⟩, ⟨rfl, rfl⟩, fun _ => rfl, ⟨rfl, rfl, rfl⟩, rfl, rfl, rfl, rfl,
    rfl, rfl, rfl⟩

section
variable {s : State} {i : Instr} {x : RegId} {r : Byte}

theorem leavesResult_of_writeResult (h : exec i s = .next (s.writeResult x r)) : LeavesResult i x r s :=
  ⟨_, h, (s.reg_writeResult x r x).trans (if_pos rfl), s.writeResult_pc x r, s.writeResult_keepsAllButRegs x r⟩

/-- The flag is written last, so that it is what VF holds at x = 15 too (R100). -/
theorem leavesResultAndFlag_of_writeResultFlag {c : Bool} (h : exec i s = .next (s.writeResultFlag x r c)) :
    LeavesResultAndFlag i x r.toNat (flagByte c).toNat s := by
  refine ⟨_, h, fun hx => ?_, ?_, s.writeResultFlag_pc x r c, s.writeResultFlag_keepsAllButRegs x r c⟩
  · rw [State.reg_writeResultFlag, if_neg hx, if_pos rfl]
  · rw [State.reg_writeResultFlag, if_pos rfl]

/-- OR, AND and XOR write the flag 0 at `LOGIC_VF = zero` and no flag at `unchanged` (R104 to R106). -/
theorem leavesResult_or_flag_of_writeLogic (h : exec i s = .next (s.writeLogic x r)) :
    (s.cfg.logicVF = .unchanged → LeavesResult i x r s) ∧
    (s.cfg.logicVF = .zero → LeavesResultAndFlag i x r.toNat 0 s) :=
  ⟨fun hl => leavesResult_of_writeResult (s.writeLogic_unchanged x r hl ▸ h),
    fun hl => leavesResultAndFlag_of_writeResultFlag (s.writeLogic_zero x r hl ▸ h)⟩

end

/-! ## The instructions without a flag (R101 to R103, R112) -/

/-- Settles O23: both write a result and no flag, and the sum of bytes is that of the numbers modulo 256. -/
theorem loadAndAddByteWriteNoFlag : Obligations.LoadAndAddByteWriteNoFlag := by
  refine fun s x kk => ⟨leavesResult_of_writeResult rfl, ?_⟩
  rw [BitVec.ofNat_add, BitVec.ofNat_toNat, BitVec.ofNat_toNat]
  exact leavesResult_of_writeResult rfl

/-- Settles O28: the byte masked is the one the state holds, under no law. -/
theorem rndMasksTheRandomByte : Obligations.RndMasksTheRandomByte := fun _ _ _ => leavesResult_of_writeResult rfl

/-! ## Assignment and logic (R103 to R106) -/

/-- Settles O24: LD is a plain result, and each of the three logic operations writes its result by `LOGIC_VF`. -/
theorem assignAndLogicOpsWriteVFByLogicVF : Obligations.AssignAndLogicOpsWriteVFByLogicVF := by
  refine ⟨fun s x y => leavesResult_of_writeResult rfl, fun s x y i r hmem => leavesResult_or_flag_of_writeLogic ?_⟩
  simp only [List.mem_cons, Prod.mk.injEq, List.not_mem_nil, or_false] at hmem
  obtain ⟨rfl, rfl⟩ | ⟨rfl, rfl⟩ | ⟨rfl, rfl⟩ := hmem <;> rfl

/-! ## Addition and subtraction (R107, R108, R110) -/

theorem flagByte_decide_toNat (p : Prop) [Decidable p] : (flagByte (decide p)).toNat = if p then 1 else 0 := by
  simp only [flagByte_toNat, decide_eq_true_eq]

/-- Settles O25: the sum of bytes is that of the numbers modulo 256, and the carry is a comparison of numbers. -/
theorem addSetsCarry : Obligations.AddSetsCarry := by
  intro s x y
  have hsum : (s.reg x + s.reg y).toNat = ((s.reg x).toNat + (s.reg y).toNat) % 256 := BitVec.toNat_add ..
  rw [← hsum, ← flagByte_decide_toNat]
  exact leavesResultAndFlag_of_writeResultFlag rfl

/-- A difference whose flag at the machine's `SUB_FLAG` is a comparison `p` (R108, R110). -/
theorem leavesResultAndFlag_of_difference {s : State} {i : Instr} {x : RegId} {a b : Byte} {p : Prop} [Decidable p]
    (h : exec i s = .next (s.writeResultFlag x (a - b) (borrowFlag s.cfg.subFlag a b)))
    (hflag : borrowFlag s.cfg.subFlag a b = decide p) :
    LeavesResultAndFlag i x ((a.toNat + 256 - b.toNat) % 256) (if p then 1 else 0) s := by
  have hdiff : (a - b).toNat = (a.toNat + 256 - b.toNat) % 256 := by bv_omega
  rw [← hdiff, ← flagByte_decide_toNat, ← hflag]
  exact leavesResultAndFlag_of_writeResultFlag h

/-- Settles O26: both differ in which operand is the minuend, and the flag compares the operands as `SUB_FLAG` says. -/
theorem subtractionsSetFlagBySubFlag : Obligations.SubtractionsSetFlagBySubFlag := by
  rintro s x y _ _ rfl rfl
  refine ⟨fun hp => ?_, fun hp => ?_⟩
  · have hflag (a b : Byte) : borrowFlag s.cfg.subFlag a b = decide (b.toNat ≤ a.toNat) := by rw [hp, borrowFlag]
    exact ⟨leavesResultAndFlag_of_difference rfl (hflag ..), leavesResultAndFlag_of_difference rfl (hflag ..)⟩
  · have hflag (a b : Byte) : borrowFlag s.cfg.subFlag a b = decide (a.toNat < b.toNat) := by rw [hp, borrowFlag]
    exact ⟨leavesResultAndFlag_of_difference rfl (hflag ..), leavesResultAndFlag_of_difference rfl (hflag ..)⟩

/-! ## Shifts (R109, R111) -/

theorem flagByte_getLsbD_toNat (b : Byte) (k : Nat) : (flagByte (b.getLsbD k)).toNat = b.toNat / 2 ^ k % 2 := by
  rw [flagByte_toNat, BitVec.getLsbD, ← Nat.toNat_testBit]
  cases b.toNat.testBit k <;> rfl

theorem shiftedOutRight_toNat (b : Byte) : (flagByte (shiftedOutRight b)).toNat = b.toNat % 2 := by
  rw [shiftedOutRight, flagByte_getLsbD_toNat, pow_zero, Nat.div_one]

/-- The bit shifted out on the left is the whole of b div 128, a byte being below 256. -/
theorem shiftedOutLeft_toNat (b : Byte) : (flagByte (shiftedOutLeft b)).toNat = b.toNat / 128 := by
  rw [shiftedOutLeft, flagByte_getLsbD_toNat]
  omega

theorem State.shiftSource_toNat {s : State} {x y : RegId} {a : Nat}
    (h : s.cfg.shiftSrc = .vx ∧ a = (s.reg x).toNat ∨ s.cfg.shiftSrc = .vy ∧ a = (s.reg y).toNat) :
    (s.shiftSource x y).toNat = a := by
  obtain ⟨hsrc, rfl⟩ | ⟨hsrc, rfl⟩ := h <;> rw [State.shiftSource, hsrc]

/-- Settles O27: at the operand `SHIFT_SRC` names, the shifts and the bits they lose are division and remainder. -/
theorem shiftsSetFlagToTheBitShiftedOut : Obligations.ShiftsSetFlagToTheBitShiftedOut := by
  intro s x y a ha
  obtain rfl := State.shiftSource_toNat ha
  have hright : (s.shiftSource x y >>> 1).toNat = (s.shiftSource x y).toNat / 2 := by
    rw [BitVec.toNat_ushiftRight, Nat.shiftRight_one]
  have hleft : (s.shiftSource x y <<< 1).toNat = 2 * (s.shiftSource x y).toNat % 256 := by
    rw [BitVec.toNat_shiftLeft, Nat.shiftLeft_eq, pow_one, mul_comm]
  rw [← hright, ← hleft, ← shiftedOutRight_toNat, ← shiftedOutLeft_toNat]
  exact ⟨leavesResultAndFlag_of_writeResultFlag rfl, leavesResultAndFlag_of_writeResultFlag rfl⟩

end Sys2Proof.Machine

/-! SUPPORT. The family of the index register and memory: the instructions that write I alone, and the three that move
bytes between registers and memory under a range check (spec/43_index_memory.md R120 to R126). -/

namespace Sys2Proof.Machine

/-- The frame of an instruction that writes no more than memory, the general registers, I and PC. -/
def KeepsAllButTransfer (s t : State) : Prop :=
  KeepsStack s t ∧ KeepsTimers s t ∧ KeepsDisplay s t ∧ KeepsStatus s t ∧ t.out = s.out ∧ KeepsOutside s t

theorem keepsAllButTransfer (s : State) (mem : Memory) (v : Vector Byte 16) (i pc : Word) :
    KeepsAllButTransfer s { s with mem := mem, v := v, i := i, pc := pc } :=
  ⟨⟨rfl, fun _ => rfl⟩, ⟨rfl, rfl⟩, fun _ => rfl, ⟨rfl, rfl, rfl⟩, rfl, rfl, rfl, rfl, rfl, rfl, rfl⟩

/-! ## I alone (R121 to R123) -/

/-- An instruction answers a next state with I at a number and PC + 2; everything else as before. -/
def LeavesIndex (i : Instr) (v : Nat) (s : State) : Prop :=
  ∃ t, exec i s = .next t ∧ t.i.toNat = v ∧ t.pc = s.pc + 2#16 ∧ KeepsAllButIndex s t

theorem leavesIndex_of_setIndex {i : Instr} {s : State} {w : Word} (h : exec i s = .next (s.setIndex w).advance) :
    LeavesIndex i w.toNat s :=
  ⟨_, h, rfl, rfl, fun _ => rfl, fun _ _ => rfl, keepsAllButTransfer s ..⟩

/-- Settles O29: an address immediate is a word as it stands, and the sum of words is that of the numbers modulo
65536. -/
theorem indexInstructionsWriteI : Obligations.IndexInstructionsWriteI := by
  intro s x nnn i v hmem
  simp only [List.mem_cons, Prod.mk.injEq, List.not_mem_nil, or_false] at hmem
  obtain ⟨rfl, rfl⟩ | ⟨rfl, rfl⟩ := hmem
  · have haddr : (zext12 nnn).toNat = nnn.toNat := BitVec.toNat_setWidth_of_le (by decide)
    rw [← haddr]
    exact leavesIndex_of_setIndex rfl
  · have hbyte : (zext8 (s.reg x)).toNat = (s.reg x).toNat := BitVec.toNat_setWidth_of_le (by decide)
    have hsum : (s.i + zext8 (s.reg x)).toNat = (s.i.toNat + (s.reg x).toNat) % 65536 := by
      rw [BitVec.toNat_add, hbyte]
    rw [← hsum]
    exact leavesIndex_of_setIndex rfl

/-- Five times a byte is below 65536, so that the address of a glyph does not wrap (R123). -/
theorem glyphAddr_toNat (b : Byte) : (glyphAddr b).toNat = b.toNat * 5 :=
  Nat.mod_eq_of_lt (by have := b.isLt; omega)

/-- Settles O30: the address of the glyph is that of the whole register value. -/
theorem fontAddressIsFiveTimesTheValue : Obligations.FontAddressIsFiveTimesTheValue := by
  intro s x
  rw [← glyphAddr_toNat]
  exact leavesIndex_of_setIndex rfl

/-! ## The range check (R44 to R46, R154) -/

section
variable {s : State} {x : RegId}

theorem exec_ldBVx_of_le (h : s.i.toNat + 2 ≤ 4095) :
    exec (.ldBVx x) s = .next (s.storeBytes (s.effAddr 0) (decimalDigits (s.reg x))).advance := by
  have hnone : rangeFault .write s.i 3 = none := (rangeFault_eq_none ..).2 (.inr (by omega))
  simp only [exec, execLdBVx, hnone]

theorem exec_ldVxMem_of_le (h : s.i.toNat + x.toNat ≤ 4095) :
    exec (.ldVxMem x) s =
      .next ({ s with v := loadRegs s.v 0 (s.bytesAt (s.effAddr 0) (blockCount x)) }.setIndex
        (s.blockIndex x)).advance := by
  have hnone : rangeFault .read s.i (blockCount x) = none :=
    (rangeFault_eq_none ..).2 (.inr (by rw [blockCount]; omega))
  simp only [exec, execLdVxMem, hnone]

theorem exec_ldBVx_of_gt (h : 4095 < s.i.toNat + 2) :
    exec (.ldBVx x) s = raise (.memWriteRange (lowestOutOfRange s.i)) s := by
  simp only [exec, execLdBVx, rangeFault_of_lt .write s.i 3 (by decide) (by omega)]

theorem exec_ldMemVx_of_gt (h : 4095 < s.i.toNat + x.toNat) :
    exec (.ldMemVx x) s = raise (.memWriteRange (lowestOutOfRange s.i)) s := by
  simp only [exec, execLdMemVx, rangeFault_of_lt .write s.i (x.toNat + 1) (Nat.succ_ne_zero _) (by omega), blockCount]

theorem exec_ldVxMem_of_gt (h : 4095 < s.i.toNat + x.toNat) :
    exec (.ldVxMem x) s = raise (.memReadRange (lowestOutOfRange s.i)) s := by
  simp only [exec, execLdVxMem, rangeFault_of_lt .read s.i (x.toNat + 1) (Nat.succ_ne_zero _) (by omega), blockCount]

end

/-! ## The stores (R124, R125) -/

theorem State.storeBytes_keepsMemoryBut (s : State) (a : Nat) (bs : List Byte) :
    KeepsMemoryBut a bs.length s (s.storeBytes a bs) :=
  fun b hb => read_storeBytes_outside s.mem a b bs hb

theorem decimalDigits_toNat (b : Byte) :
    (decimalDigits b).map BitVec.toNat = [b.toNat / 100, b.toNat / 10 % 10, b.toNat % 10] := by
  have hb := b.isLt
  have hdigit {n : Nat} (hn : n < 256) : (BitVec.ofNat 8 n).toNat = n := Nat.mod_eq_of_lt hn
  simp only [decimalDigits, List.map_cons, List.map_nil]
  rw [hdigit (by omega), hdigit (by omega), hdigit (by omega)]

/-- A store of the digits of a byte leaves digit `k` at I + k (R124). -/
theorem State.byteAt_digitStore (s : State) (b : Byte) {k d : Nat}
    (hd : [b.toNat / 100, b.toNat / 10 % 10, b.toNat % 10][k]? = some d) :
    ((s.storeBytes (s.effAddr 0) (decimalDigits b)).byteAt (s.effAddr k)).toNat = d := by
  rw [← decimalDigits_toNat, List.getElem?_map, Option.map_eq_some_iff] at hd
  obtain ⟨digit, hget, rfl⟩ := hd
  obtain ⟨hk, rfl⟩ := List.getElem?_eq_some_iff.1 hget
  exact congrArg BitVec.toNat (read_storeBytes_inside s.mem s.i.toNat k _ hk)

/-- Settles O31: the digits are below 256, and the store writes them and nothing else. -/
theorem bcdStoresThreeDigits : Obligations.BcdStoresThreeDigits := by
  refine fun s x => ⟨fun h => ?_, fun h => ?_⟩
  · exact ⟨_, exec_ldBVx_of_le h, s.byteAt_digitStore _ rfl, s.byteAt_digitStore _ rfl, s.byteAt_digitStore _ rfl,
      s.storeBytes_keepsMemoryBut _ (decimalDigits _), fun _ _ => rfl, rfl, rfl, keepsAllButTransfer s ..⟩
  · rw [← lowestOutOfRange_toNat]
    exact raisesFault_of_raise (exec_ldBVx_of_gt h)

/-! ## The block transfers (R125, R126) -/

theorem State.blockIndex_unchanged {s : State} (x : RegId) (h : s.cfg.memIdxI = .unchanged) : s.blockIndex x = s.i := by
  rw [State.blockIndex, h]

/-- I advances by the bytes moved, modulo 65536 (the spec's decision D16). -/
theorem State.blockIndex_advance_toNat {s : State} (x : RegId) (h : s.cfg.memIdxI = .advance) :
    (s.blockIndex x).toNat = (s.i.toNat + x.toNat + 1) % 65536 := by
  have hcount : (BitVec.ofNat 16 (blockCount x)).toNat = x.toNat + 1 :=
    Nat.mod_eq_of_lt (by have := x.isLt; rw [blockCount]; omega)
  rw [State.blockIndex, h, BitVec.toNat_add, hcount, Nat.add_assoc]

/-- Settles O32: the store holds V0 to Vx in order, and I is written after it by `MEMIDX_I`. -/
theorem blockStoreWritesRegisters : Obligations.BlockStoreWritesRegisters := by
  refine fun s x => ⟨fun h => ?_, fun h => ?_⟩
  · have hbytes (r : RegId) (hr : r.toNat ≤ x.toNat) :
        (s.storeBytes (s.effAddr 0) (s.regsUpTo x)).byteAt (s.effAddr r.toNat) = s.reg r :=
      (s.byteAt_blockStore hr).trans (by rw [BitVec.ofNat_toNat, BitVec.setWidth_eq])
    have hkept := s.storeBytes_keepsMemoryBut (s.effAddr 0) (s.regsUpTo x)
    rw [State.regsUpTo_length, blockCount] at hkept
    exact ⟨_, exec_ldMemVx_of_le h, hbytes, hkept, fun _ _ => rfl, s.blockIndex_unchanged x,
      s.blockIndex_advance_toNat x, rfl, keepsAllButTransfer s ..⟩
  · rw [← lowestOutOfRange_toNat]
    exact raisesFault_of_raise (exec_ldMemVx_of_gt h)

/-- A block load takes the registers up to x from memory and leaves the later ones (R126). -/
theorem State.loadRegs_bytesAt (s : State) (x : RegId) (a : Nat) (r : RegId) :
    (loadRegs s.v 0 (s.bytesAt a (blockCount x)))[r.toNat]'r.isLt =
      if r.toNat ≤ x.toNat then s.byteAt (a + r.toNat) else s.reg r := by
  rw [loadRegs_getElem _ _ _ _ r.isLt, if_pos (Nat.zero_le _), Nat.sub_zero]
  split
  · next hr =>
    have hlen : r.toNat < (s.bytesAt a (blockCount x)).length := by
      rw [State.bytesAt_length, blockCount]
      omega
    rw [List.getElem?_eq_getElem hlen, State.bytesAt_getElem, Option.getD_some]
  · next hr =>
    rw [List.getElem?_eq_none (by rw [State.bytesAt_length, blockCount]; omega)]
    rfl

/-- Settles O33: the load writes V0 to Vx in order, and I is written after it by `MEMIDX_I`. -/
theorem blockLoadReadsRegisters : Obligations.BlockLoadReadsRegisters := by
  refine fun s x => ⟨fun h => ?_, fun h => ?_⟩
  · have hregs := s.loadRegs_bytesAt x (s.effAddr 0)
    exact ⟨_, exec_ldVxMem_of_le h, fun r hr => (hregs r).trans (if_pos hr),
      fun r hr => (hregs r).trans (if_neg (Nat.not_le.2 hr)), fun _ => rfl, s.blockIndex_unchanged x,
      s.blockIndex_advance_toNat x, rfl, keepsAllButTransfer s ..⟩
  · rw [← lowestOutOfRange_toNat]
    exact raisesFault_of_raise (exec_ldVxMem_of_gt h)

end Sys2Proof.Machine

/-! SUPPORT. The family of the display: where a sprite bit lands, why no two bits of one sprite land on one pixel, and
from that what one DRW and two in succession leave (spec/44_display.md R130 to R133). -/

namespace Sys2Proof.Machine

/-! ## The writers of the display (R130, R131) -/

theorem ExecEffect.display_writers {s t : State} {i : Instr} (he : ExecEffect s i t) {p : Pos}
    (hne : t.disp.pixel p ≠ s.disp.pixel p) : i = .cls ∨ ∃ x y n, i = .drwVxVyNibble x y n := by
  cases he
  case clear => exact .inl rfl
  case draw x y n _ _ => exact .inr ⟨x, y, n, rfl⟩
  all_goals exact absurd rfl hne

/-- Settles O52, by the kinds of change an instruction makes. -/
theorem onlyClsAndDrwWriteTheDisplay : Obligations.OnlyClsAndDrwWriteTheDisplay := fun _ _ _ _ h hne =>
  (exec_effect h).display_writers hne

/-- Settles O35: CLS writes the blank surface and PC alone. -/
theorem clsClearsEveryPixel : Obligations.ClsClearsEveryPixel := fun _ =>
  ⟨_, rfl, pixel_blank, rfl, fun _ => rfl, fun _ _ => rfl, rfl, ⟨rfl, fun _ => rfl⟩, ⟨rfl, rfl⟩, ⟨rfl, rfl, rfl⟩, rfl,
    rfl, rfl, rfl, rfl, rfl, rfl⟩

/-! ## Where a sprite bit lands (R130) -/

theorem place_coord_px (x y : Nat) : (place .coord x y).px.val = x % 64 := rfl

theorem place_coord_py (x y : Nat) : (place .coord x y).py.val = y % 32 := rfl

/-- At `linear` the column and the row are the remainder and the quotient of one index below 2048. -/
theorem place_linear_index (x y : Nat) :
    (place .linear x y).py.val * 64 + (place .linear x y).px.val = (x + 64 * y) % 2048 := by
  have hpx : (place .linear x y).px.val = (x + 64 * y) % 2048 % 64 := rfl
  have hpy : (place .linear x y).py.val = (x + 64 * y) % 2048 / 64 % 32 := rfl
  omega

/-- Settles O36: `coord` reduces each coordinate by itself, `linear` the index of the two. -/
theorem placeReducesCoordinates : Obligations.PlaceReducesCoordinates := fun x y =>
  ⟨place_coord_px x y, place_coord_py x y, place_linear_index x y⟩

/-- A sprite is at most 8 columns by 15 rows, less than the display, so that two of its bits never land on one pixel,
whichever way the coordinates wrap. -/
theorem place_injective {w : DrawWrap} {ox oy r r' c c' : Nat} (hr : r < 16) (hr' : r' < 16) (hc : c < 8)
    (hc' : c' < 8) (h : place w (ox + c) (oy + r) = place w (ox + c') (oy + r')) : r = r' ∧ c = c' := by
  cases w with
  | coord =>
    have hpx : (ox + c) % 64 = (ox + c') % 64 := congrArg (fun p => p.px.val) h
    have hpy : (oy + r) % 32 = (oy + r') % 32 := congrArg (fun p => p.py.val) h
    omega
  | linear =>
    have hindex : (ox + c + 64 * (oy + r)) % 2048 = (ox + c' + 64 * (oy + r')) % 2048 := by
      rw [← place_linear_index, ← place_linear_index, h]
    omega

theorem rowPoints_nodup (w : DrawWrap) (ox oy : Nat) {r : Nat} (hr : r < 16) (b : Byte) :
    (rowPoints w ox oy r b).Nodup := by
  refine List.Nodup.map_on (fun c hc c' hc' h => ?_) (List.nodup_range.filter _)
  have hlt : c < 8 := List.mem_range.1 (List.mem_of_mem_filter hc)
  have hlt' : c' < 8 := List.mem_range.1 (List.mem_of_mem_filter hc')
  exact (place_injective hr hr hlt hlt' h).2

theorem spritePoints_nodup (w : DrawWrap) (ox oy : Nat) {r : Nat} {bs : List Byte} (hr : r + bs.length ≤ 16) :
    (spritePoints w ox oy r bs).Nodup := by
  induction bs generalizing r with
  | nil => exact List.nodup_nil
  | cons b bs ih =>
    rw [List.length_cons] at hr
    refine (rowPoints_nodup w ox oy (by omega) b).append (ih (by omega)) fun p hrow hrest => ?_
    obtain ⟨c, hc, -, hp⟩ := mem_rowPoints.1 hrow
    obtain ⟨k, c', hk, hc', -, hp'⟩ := mem_spritePoints.1 hrest
    have hrows : r = r + 1 + k := (place_injective (by omega) (by omega) hc hc' (hp.trans hp'.symm)).1
    omega

theorem State.drawTargets_nodup (s : State) (x y : RegId) (n : Nibble) : (s.drawTargets x y n).Nodup :=
  spritePoints_nodup _ _ _ (by rw [State.bytesAt_length]; omega)

/-- A DRW toggles the places of the set bits of the n bytes from I (R132). -/
theorem State.mem_drawTargets {s : State} {x y : RegId} {n : Nibble} {p : Pos} :
    p ∈ s.drawTargets x y n ↔ ∃ r c, r < n.toNat ∧ c < 8 ∧ (s.byteAt (s.effAddr r)).getLsbD (7 - c) = true ∧
      place s.cfg.drawWrap ((s.reg x).toNat + c) ((s.reg y).toNat + r) = p := by
  simp only [State.drawTargets, mem_spritePoints, State.bytesAt_length, State.bytesAt_getElem, State.effAddr,
    Nat.add_zero, Nat.zero_add, exists_prop]

/-! ## One DRW (R132) -/

theorem flagByte_eq_one_iff {c : Bool} : flagByte c = 1#8 ↔ c = true := by
  cases c <;> decide

/-- The state a DRW in range leaves. -/
def State.afterDraw (s : State) (x y : RegId) (n : Nibble) : State :=
  ({ s with disp := (drawPoints s.disp (s.drawTargets x y n)).1,
            out := { s.out with redraw := true } }.setFlag (drawPoints s.disp (s.drawTargets x y n)).2).advance

section
variable {s : State} {x y : RegId} {n : Nibble}

theorem exec_drwVxVyNibble_of_le (h : n = 0#4 ∨ s.i.toNat + n.toNat - 1 ≤ 4095) :
    exec (.drwVxVyNibble x y n) s = .next (s.afterDraw x y n) := by
  have hnone : rangeFault .read s.i n.toNat = none := (rangeFault_eq_none ..).2 (by bv_omega)
  simp only [exec, execDrwVxVyNibble, hnone, State.afterDraw]

theorem exec_drwVxVyNibble_of_gt (h : 4095 < s.i.toNat + n.toNat - 1) (hn : n ≠ 0#4) :
    exec (.drwVxVyNibble x y n) s = raise (.memReadRange (lowestOutOfRange s.i)) s := by
  simp only [exec, execDrwVxVyNibble, rangeFault_of_lt .read s.i n.toNat (by bv_omega) (by omega)]

theorem State.afterDraw_pixel (p : Pos) :
    (s.afterDraw x y n).disp.pixel p = (s.disp.pixel p ^^ decide (p ∈ s.drawTargets x y n)) :=
  (drawPoints_spec s.disp _ (s.drawTargets_nodup x y n)).1 p

theorem State.afterDraw_pixel_ne_iff {p : Pos} :
    (s.afterDraw x y n).disp.pixel p ≠ s.disp.pixel p ↔ p ∈ s.drawTargets x y n := by
  rw [State.afterDraw_pixel]
  cases s.disp.pixel p <;> simp

theorem State.afterDraw_reg (r : RegId) :
    (s.afterDraw x y n).reg r =
      if r = regVF then flagByte ((s.drawTargets x y n).any fun p => s.disp.pixel p) else s.reg r := by
  rw [← (drawPoints_spec s.disp _ (s.drawTargets_nodup x y n)).2]
  exact State.reg_setFlag ..

/-- VF is 1 exactly when a pixel that the DRW changes was set. -/
theorem State.afterDraw_flag_eq_one_iff :
    (s.afterDraw x y n).reg regVF = 1#8 ↔
      ∃ p, (s.afterDraw x y n).disp.pixel p ≠ s.disp.pixel p ∧ s.disp.pixel p = true := by
  simp only [State.afterDraw_reg, if_true, flagByte_eq_one_iff, List.any_eq_true, State.afterDraw_pixel_ne_iff]

theorem State.afterDraw_flag_eq_zero_or_one :
    (s.afterDraw x y n).reg regVF = 0#8 ∨ (s.afterDraw x y n).reg regVF = 1#8 :=
  State.afterDraw_reg regVF ▸ flagByte_eq_zero_or_one _

end

/-- Settles O37: the bits of a sprite land on distinct pixels, so that each of these changes once, and VF is 1 exactly
when one of them was set. -/
theorem drawTogglesTheSpritesPixels : Obligations.DrawTogglesTheSpritesPixels := by
  refine fun s x y n => ⟨fun hrange => ?_, fun hn hrange => ?_⟩
  · have hflag : (∃ p, s.disp.pixel p = true ∧ (s.afterDraw x y n).disp.pixel p = false) →
        (s.afterDraw x y n).reg regVF = 1#8 := by
      rintro ⟨p, hset, hclear⟩
      exact State.afterDraw_flag_eq_one_iff.2 ⟨p, by simp [hset, hclear], hset⟩
    have hnoflag (hkept : ∀ p, s.disp.pixel p = true → (s.afterDraw x y n).disp.pixel p = true) :
        (s.afterDraw x y n).reg regVF = 0#8 := by
      refine State.afterDraw_flag_eq_zero_or_one.resolve_right fun hone => ?_
      obtain ⟨p, hne, hset⟩ := State.afterDraw_flag_eq_one_iff.1 hone
      exact hne ((hkept p hset).trans hset.symm)
    have hregs : KeepsRegsBut [regVF] s (s.afterDraw x y n) := fun r hr =>
      (State.afterDraw_reg r).trans (if_neg (List.mem_singleton.not.1 hr))
    exact ⟨_, exec_drwVxVyNibble_of_le hrange, fun p => State.afterDraw_pixel_ne_iff.trans State.mem_drawTargets, hflag,
      hnoflag, rfl, rfl, fun _ => rfl, hregs, rfl, ⟨rfl, fun _ => rfl⟩, ⟨rfl, rfl⟩, ⟨rfl, rfl, rfl⟩, rfl, rfl, rfl, rfl,
      rfl, rfl⟩
  · rw [← lowestOutOfRange_toNat]
    exact raisesFault_of_raise (exec_drwVxVyNibble_of_gt hrange hn)

/-! ## Two DRW in succession (R133) -/

section
variable {s : State} {x y : RegId} {n : Nibble} (hx : x ≠ regVF) (hy : y ≠ regVF)
include hx hy

/-- A DRW leaves I, the sprite and its origin as they are, so that a second one lands on the same pixels. -/
theorem State.afterDraw_drawTargets : (s.afterDraw x y n).drawTargets x y n = s.drawTargets x y n := by
  have hox : (s.afterDraw x y n).reg x = s.reg x := (State.afterDraw_reg x).trans (if_neg hx)
  have hoy : (s.afterDraw x y n).reg y = s.reg y := (State.afterDraw_reg y).trans (if_neg hy)
  rw [State.drawTargets, hox, hoy]
  rfl

theorem State.afterDraw_twice_pixel (p : Pos) :
    ((s.afterDraw x y n).afterDraw x y n).disp.pixel p = s.disp.pixel p := by
  rw [State.afterDraw_pixel, State.afterDraw_drawTargets hx hy, State.afterDraw_pixel, Bool.xor_assoc, Bool.xor_self,
    Bool.xor_false]

/-- The pixels the second DRW changes are those the first changed, and such a pixel is set between the two exactly when
it was clear before them. -/
theorem State.afterDraw_twice_flag_eq_one_iff :
    ((s.afterDraw x y n).afterDraw x y n).reg regVF = 1#8 ↔
      ∃ p, (s.afterDraw x y n).disp.pixel p ≠ s.disp.pixel p ∧ s.disp.pixel p = false := by
  rw [State.afterDraw_flag_eq_one_iff]
  refine exists_congr fun p => ?_
  rw [State.afterDraw_twice_pixel hx hy]
  cases s.disp.pixel p <;> cases (s.afterDraw x y n).disp.pixel p <;> decide

end

/-- Settles O38: both DRW are in range, since a DRW leaves I as it is. -/
theorem drawingTwiceRestoresTheDisplay : Obligations.DrawingTwiceRestoresTheDisplay := fun s x y n hx hy hrange =>
  ⟨s.afterDraw x y n, _, exec_drwVxVyNibble_of_le hrange, exec_drwVxVyNibble_of_le hrange,
    State.afterDraw_twice_pixel hx hy, State.afterDraw_flag_eq_one_iff, State.afterDraw_twice_flag_eq_one_iff hx hy⟩

end Sys2Proof.Machine

/-! SUPPORT. The family of the keypad and the timers: the skips on a key, the instructions that read and set the
counters, the wait for a key, and the counters over any number of cycles (spec/45_keypad_timers.md R140 to R148). -/

namespace Sys2Proof.Machine

/-! ## The skips on a key (R141, R142) -/

theorem zext8_toNat (b : Byte) : (zext8 b).toNat = b.toNat := BitVec.toNat_setWidth_of_le (by decide)

section
variable {s : State} {x : RegId}

theorem exec_skpVx_of_le (h : (s.reg x).toNat ≤ 15) :
    exec (.skpVx x) s = .next (s.skipIf (s.keyDown (s.reg x).toNat)) := if_neg (Nat.not_lt.2 h)

theorem exec_sknpVx_of_le (h : (s.reg x).toNat ≤ 15) :
    exec (.sknpVx x) s = .next (s.skipIf (!s.keyDown (s.reg x).toNat)) := if_neg (Nat.not_lt.2 h)

theorem exec_skpVx_of_gt (h : 15 < (s.reg x).toNat) : exec (.skpVx x) s = raise (.keyIndexRange (s.reg x)) s :=
  if_pos h

theorem exec_sknpVx_of_gt (h : 15 < (s.reg x).toNat) : exec (.sknpVx x) s = raise (.keyIndexRange (s.reg x)) s :=
  if_pos h

end

/-- Settles O39: a number up to 15 names a key, on which SKP skips and on whose negation SKNP skips; another number is
the value of the fault. -/
theorem keySkipsTestTheKeyNamed : Obligations.KeySkipsTestTheKeyNamed := by
  rintro s x _ rfl
  refine ⟨fun hle => ⟨leavesPC_of_skipIf ?_, leavesPC_of_skipIf_not ?_⟩, fun hgt => ?_⟩
  · rw [exec_skpVx_of_le hle, State.keyDown, Bool.decide_eq_true]
  · rw [exec_sknpVx_of_le hle, State.keyDown, decide_not, Bool.decide_eq_true]
  · rw [← zext8_toNat]
    exact ⟨raisesFault_of_raise (exec_skpVx_of_gt hgt), raisesFault_of_raise (exec_sknpVx_of_gt hgt)⟩

/-! ## The instructions that read and set the counters (R143, R146, R147) -/

/-- The frame of an instruction that writes no more than the counters and PC. -/
def KeepsAllButTimers (s t : State) : Prop :=
  KeepsMemory s t ∧ KeepsRegsBut [] s t ∧ t.i = s.i ∧ KeepsStack s t ∧ KeepsDisplay s t ∧ KeepsStatus s t ∧
  t.out = s.out ∧ KeepsOutside s t

theorem keepsAllButTimers (s : State) (dt st : Byte) (pc : Word) :
    KeepsAllButTimers s { s with dt := dt, st := st, pc := pc } :=
  ⟨fun _ => rfl, fun _ _ => rfl, rfl, ⟨rfl, fun _ => rfl⟩, fun _ => rfl, ⟨rfl, rfl, rfl⟩, rfl, rfl, rfl, rfl, rfl, rfl,
    rfl⟩

/-- A cycle whose instruction leaves the core running ends in the tick (R86). -/
theorem step_of_legal_running {s t : State} {key : BitVec 16} {rnd : Byte} {i : Instr}
    (hm : s.nextMove = .cycle key rnd) (hrun : s.halted = false) (hpc : s.pc.toNat ≤ 4094)
    (hd : decodeWord s.wordAtPC = .ok i) (ht : exec i (s.beginCycle key rnd) = .next t) (hrun' : t.halted = false) :
    step s = .next t.tick := by
  rw [step_of_legal hm hrun hpc hd ht, State.endCycle_of_running hrun']

/-- Settles O40: each is a write of one piece and PC + 2, and the cycle's tick follows that write. -/
theorem timerInstructionsMoveTheCounters : Obligations.TimerInstructionsMoveTheCounters := by
  refine ⟨fun s x => ⟨leavesResult_of_writeResult rfl, ?_, ?_⟩, ?_⟩
  · exact ⟨_, rfl, rfl, rfl, rfl, keepsAllButTimers s (s.reg x) s.st _⟩
  · exact ⟨_, rfl, rfl, rfl, rfl, keepsAllButTimers s s.dt (s.reg x) _⟩
  · rintro s x ⟨key, rnd, hm⟩ hrun hpc
    refine ⟨fun hd => ?_, fun hd => ?_, fun hd => ?_⟩
    · exact ⟨_, step_of_legal_running hm hrun hpc hd rfl hrun, countDown_toNat _⟩
    · exact ⟨_, step_of_legal_running hm hrun hpc hd rfl hrun, countDown_toNat _, rfl⟩
    · exact ⟨_, step_of_legal_running hm hrun hpc hd rfl hrun, (State.reg_writeResult ..).trans (if_pos rfl),
        countDown_toNat _⟩

/-! ## The wait for a key (R144) -/

/-- The least key down is the one found. -/
theorem lowestKey_of_least {key : BitVec 16} {k : Nat} (hdown : key.getLsbD k = true)
    (hleast : ∀ j, j < k → key.getLsbD j = false) : lowestKey key = some k := by
  cases hfound : lowestKey key with
  | none => simp [(lowestKey_eq_none key).1 hfound] at hdown
  | some j =>
    obtain ⟨-, hdown', hleast'⟩ := lowestKey_eq_some hfound
    obtain hlt | rfl | hgt := Nat.lt_trichotomy j k
    · cases (hleast j hlt).symm.trans hdown'
    · rfl
    · cases (hleast' k hgt).symm.trans hdown

theorem exec_ldVxK_of_no_key {s : State} (h : s.key = 0#16) (x : RegId) : exec (.ldVxK x) s = .next s := by
  simp only [exec, execLdVxK, (lowestKey_eq_none s.key).2 h]

theorem exec_ldVxK_of_least {s : State} {k : Nat} (hdown : s.key.getLsbD k = true)
    (hleast : ∀ j, j < k → s.key.getLsbD j = false) (x : RegId) :
    exec (.ldVxK x) s = .next (s.writeResult x (BitVec.ofNat 8 k)) := by
  simp only [exec, execLdVxK, lowestKey_of_least hdown hleast]

/-- Settles O41: the key found is the least key down, and none is found in an empty latch. -/
theorem keyWaitTakesTheLeastKeyDown : Obligations.KeyWaitTakesTheLeastKeyDown := fun _ x =>
  ⟨fun h => exec_ldVxK_of_no_key h x, fun _ hdown hleast =>
    leavesResult_of_writeResult (exec_ldVxK_of_least hdown hleast x)⟩

/-- A running core on LD Vx, K. -/
def State.waits (x : RegId) (s : State) : Prop :=
  s.halted = false ∧ s.pc.toNat ≤ 4094 ∧ decodeWord s.wordAtPC = .ok (.ldVxK x)

theorem Idles.waits {n : Nat} {s t : State} {x : RegId} (h : Idles n s t) (hs : s.waits x) : t.waits x := by
  unfold State.waits
  rwa [h.halted_eq, h.pc, h.wordAtPC_eq]

theorem State.nextMove_of_host {s : State} {m : HostMove} {ms : List HostMove} (h : s.host = m :: ms) :
    s.nextMove = m := by
  rw [State.nextMove, h]

/-- A run of `n` steps and one step more. -/
theorem State.run_step {n : Nat} : ∀ {s t u : State}, s.run n = .next t → step t = .next u →
    s.run (n + 1) = .next u := by
  induction n with
  | zero =>
    rintro s t u ⟨⟩ hstep
    exact State.run_succ 0 s u hstep
  | succ n ih =>
    intro s t u hrun hstep
    obtain ⟨s', hs', hrun'⟩ := State.run_succ_cases hrun
    exact (State.run_succ _ s s' hs').trans (ih hrun' hstep)

section
variable {s : State} {x : RegId} (hs : s.waits x)
include hs

/-- A wait without a key is an idle cycle. -/
theorem step_idles_of_no_key {rnd : Byte} (hm : s.nextMove = .cycle 0#16 rnd) :
    ∃ t, step s = .next t ∧ Idles 1 s t := by
  obtain ⟨hrun, hpc, hd⟩ := hs
  have hbegin : Idles 0 s (s.beginCycle 0#16 rnd) := { Idles.refl s with }
  exact ⟨_, step_of_legal_running hm hrun hpc hd (exec_ldVxK_of_no_key rfl x) hrun, hbegin.trans (.tick _)⟩

/-- A wait with a key down writes the least one and ticks. -/
theorem step_of_least_key {key : BitVec 16} {rnd : Byte} {k : Nat} (hm : s.nextMove = .cycle key rnd)
    (hdown : key.getLsbD k = true) (hleast : ∀ j, j < k → key.getLsbD j = false) :
    step s = .next ((s.beginCycle key rnd).writeResult x (BitVec.ofNat 8 k)).tick := by
  obtain ⟨hrun, hpc, hd⟩ := hs
  exact step_of_legal_running hm hrun hpc hd (exec_ldVxK_of_least hdown hleast x) hrun

end

/-- Through any number of cycles without a key the core idles. -/
theorem run_idles_of_no_key {x : RegId} {ms : List HostMove} : ∀ {s : State} (rnds : List Byte), s.waits x →
    s.host = rnds.map (fun r => .cycle 0#16 r) ++ ms →
    ∃ t, s.run rnds.length = .next t ∧ Idles rnds.length s t ∧ t.host = ms
  | s, [], _, hhost => ⟨s, rfl, .refl s, hhost⟩
  | s, r :: rnds, hs, hhost => by
    have hm : s.nextMove = .cycle 0#16 r := State.nextMove_of_host hhost
    obtain ⟨t, hstep, hidle⟩ := step_idles_of_no_key hs hm
    have hhost' : t.host = rnds.map (fun r => .cycle 0#16 r) ++ ms := by
      rw [step_of_cycle_host ⟨_, _, hm⟩ hstep, hhost]
      rfl
    obtain ⟨u, hrun, hidle', hms⟩ := run_idles_of_no_key rnds (hidle.waits hs) hhost'
    refine ⟨u, (State.run_succ _ s t hstep).trans hrun, ?_, hms⟩
    rw [List.length_cons, Nat.add_comm]
    exact hidle.trans hidle'

/-- Settles O42: the core idles through the cycles without a key, and the next cycle differs from one more idle cycle
in PC and `V[x]` alone. -/
theorem keyWaitBlocksUntilAKeyIsDown : Obligations.KeyWaitBlocksUntilAKeyIsDown := by
  intro s x rnds key rnd rest k hrun hpc hd hhost hdown hleast
  have hs : s.waits x := ⟨hrun, hpc, hd⟩
  obtain ⟨t, ht, hidle, hrest⟩ := run_idles_of_no_key rnds hs hhost
  have hm : t.nextMove = .cycle key rnd := State.nextMove_of_host hrest
  have hstep := step_of_least_key (hidle.waits hs) hm hdown hleast
  have hhost' := step_of_cycle_host ⟨_, _, hm⟩ hstep
  have hnext : Idles (rnds.length + 1) s t.tick := hidle.trans (.tick t)
  have hk : k < 16 := BitVec.lt_of_getLsbD hdown
  refine ⟨t, _, ht, hidle.pc, hidle.regs, hidle.dt, State.run_step ht hstep, ?_, ?_, fun r hr => ?_, hnext.memory,
    hnext.index, hnext.stack, hnext.display, hnext.status, hnext.dt, hnext.st, ?_⟩
  · exact congrArg (· + 2#16) hidle.pc
  · rw [State.tick_reg, State.reg_writeResult, if_pos rfl, BitVec.toNat_ofNat, Nat.mod_eq_of_lt (by omega)]
  · rw [State.tick_reg, State.reg_writeResult, if_neg (List.mem_singleton.not.1 hr)]
    exact hidle.regs r List.not_mem_nil
  · rw [hhost', hrest, List.tail_cons]

/-! ## The counters over cycles (R148) -/

/-- A core that is running after cycles alone was running before them (R81, R158). -/
theorem running_of_run_cycles {n : Nat} {s t : State} (hcs : s.cyclesNext n) (h : s.run n = .next t)
    (hrun : t.halted = false) : s.halted = false := by
  refine Bool.eq_false_of_not_eq_true fun hhalted => ?_
  have hcycle : ∀ (_ : Nat) (s : State), s.cycleNext → s.halted = true →
      ∃ t, step s = .next t ∧ t.halted = true := by
    rintro - s ⟨key, rnd, hm⟩ hs
    exact ⟨s.beginCycle key rnd, (step_of_cycle hm).trans (cycleBody_halted _ hs), hs⟩
  obtain ⟨u, hu, huhalted⟩ := State.run_of_cycles (P := fun _ s => s.halted = true) hcycle n (j := 0) hcs hhalted
  obtain rfl := Host.Outcome.next.inj (h.symm.trans hu)
  cases hrun.symm.trans huhalted

/-- The induction over a run of cycles that raise no fault: what is carried over each cycle's instruction and its tick
holds at the end. -/
theorem State.run_of_ticks {P : Nat → State → Prop} {p : Instr → Bool}
    (htick : ∀ {j s key rnd u}, TicksFrom s key rnd u → s.runsNone p → P j s → P (j + 1) u.tick) (n : Nat) :
    ∀ {j : Nat} {s t : State}, s.cyclesNext n → (∀ k u, k < n → s.run k = .next u → u.runsNone p) →
      s.run n = .next t → t.halted = false → P j s → P (j + n) t := by
  induction n with
  | zero =>
    rintro j s t - - ⟨⟩ - hs
    exact hs
  | succ n ih =>
    intro j s t hcs hnone hrun ht hs
    obtain ⟨s', hstep, hrun'⟩ := State.run_succ_cases hrun
    have hc := State.cyclesNext_head hcs
    have hcs' : s'.cyclesNext n := State.cyclesNext_tail hcs (step_of_cycle_host hc hstep)
    have hs' : s'.halted = false := running_of_run_cycles hcs' hrun' ht
    obtain ⟨key, rnd, hm⟩ := hc
    obtain ⟨f, rfl⟩ | ⟨-, u, rfl, hu⟩ := cycle_faults_or_ticks hm (running_of_run_cycles hcs hrun ht) hstep
    · cases hs'
    · have hnone' : ∀ k v, k < n → u.tick.run k = .next v → v.runsNone p := fun k v hk hv =>
        hnone (k + 1) v (Nat.succ_lt_succ hk) ((State.run_succ k s _ hstep).trans hv)
      have hnext := ih hcs' hnone' hrun' ht (htick hu (hnone 0 s n.succ_pos rfl) hs)
      rwa [Nat.add_right_comm] at hnext

/-- The instruction that sets DT (R146). -/
def setsDT : Instr → Bool
  | .ldDTVx _ => true
  | _ => false

/-- The instruction that sets ST (R147). -/
def setsST : Instr → Bool
  | .ldSTVx _ => true
  | _ => false

section
variable {s u : State} {key : BitVec 16} {rnd : Byte} (h : TicksFrom s key rnd u)
include h

/-- Before its tick a cycle writes DT by LD DT alone. -/
theorem TicksFrom.dt_eq (hnone : s.runsNone setsDT) : u.dt = s.dt := by
  obtain ⟨i, hd, hu⟩ | ⟨-, rfl⟩ := h
  · by_contra hne
    obtain ⟨x, rfl⟩ := (exec_effect hu).dt_writers hne
    cases hnone _ hd
  · rfl

/-- Before its tick a cycle writes ST by LD ST alone. -/
theorem TicksFrom.st_eq (hnone : s.runsNone setsST) : u.st = s.st := by
  obtain ⟨i, hd, hu⟩ | ⟨-, rfl⟩ := h
  · by_contra hne
    obtain ⟨x, rfl⟩ := (exec_effect hu).st_writers hne
    cases hnone _ hd
  · rfl

end

/-- Settles O43, by induction over the cycles: each takes one from DT by its tick and nothing else writes it. -/
theorem delayCounterCountsCycles : Obligations.DelayCounterCountsCycles := by
  intro n s t hcs hnone hrun ht
  have htick : ∀ {j s' key rnd u}, TicksFrom s' key rnd u → s'.runsNone setsDT →
      s'.dt.toNat = s.dt.toNat - j → u.tick.dt.toNat = s.dt.toNat - (j + 1) := by
    intro j s' key rnd u hu hnone hdt
    rw [State.tick_dt, countDown_toNat, hu.dt_eq hnone, hdt, Nat.sub_sub]
  have hcount := State.run_of_ticks (P := fun j t => t.dt.toNat = s.dt.toNat - j) htick n (j := 0) hcs hnone hrun ht rfl
  rwa [Nat.zero_add] at hcount

/-- `j` cycles after `s` without LD ST: ST is down by `j`, floor at zero, and the last cycle, once one has run, sounded
exactly when ST had been at least `j`. -/
def SoundsAfter (s : State) (j : Nat) (t : State) : Prop :=
  t.st.toNat = s.st.toNat - j ∧ (0 < j → t.out.soundActive = decide (j ≤ s.st.toNat))

/-- `sound_active` is taken before the decrement (R86). -/
theorem SoundsAfter.tick {s s' u : State} {j : Nat} {key : BitVec 16} {rnd : Byte} (hu : TicksFrom s' key rnd u)
    (hnone : s'.runsNone setsST) (h : SoundsAfter s j s') : SoundsAfter s (j + 1) u.tick := by
  obtain ⟨hst, -⟩ := h
  rw [← hu.st_eq hnone] at hst
  have hsound : u.st ≠ 0#8 ↔ j + 1 ≤ s.st.toNat := by
    rw [← BitVec.pos_iff_ne_zero, ← BitVec.toNat_pos, hst, Nat.sub_pos_iff_lt, Nat.succ_le_iff]
  refine ⟨?_, fun _ => decide_eq_decide.2 hsound⟩
  rw [State.tick_st, countDown_toNat, hst, Nat.sub_sub]

/-- Settles O44, by induction over the cycles: each sounds when ST has not run out and then takes one from it. -/
theorem soundIsActiveWhileStLasts : Obligations.SoundIsActiveWhileStLasts := by
  intro n s t hcs hnone hrun ht
  have hstart : SoundsAfter s 0 s := ⟨rfl, nofun⟩
  have hend := State.run_of_ticks SoundsAfter.tick (n + 1) hcs hnone hrun ht hstart
  rw [Nat.zero_add] at hend
  obtain ⟨hst, hsound⟩ := hend
  exact ⟨hsound n.succ_pos, hst⟩

end Sys2Proof.Machine

/-! SUPPORT. The family of the exceptions: the report of an illegal word, the fault table of R151, precise faults and
the halted state (spec/60_exceptions.md R150 to R158). -/

namespace Sys2Proof.Machine

/-! ## The decode failure (R152) -/

/-- Settles O9: the core reports the word and idles for one cycle, whose tick sounds by ST before its decrement. -/
theorem decodeFailureReportsAndTicks : Obligations.DecodeFailureReportsAndTicks := by
  intro s key rnd e hm hrun hpc hd
  obtain ⟨t, hstep, hidle, -⟩ := step_idles_of_illegal ⟨key, rnd, hm⟩ hrun hpc hd
  obtain rfl := Host.Outcome.next.inj (hstep.symm.trans (step_of_illegal hm hrun hpc hd))
  have hsound : s.st ≠ 0#8 ↔ 0 < s.st.toNat := by rw [← BitVec.pos_iff_ne_zero, BitVec.toNat_pos]
  refine ⟨_, hstep, ?_, hidle.dt, hidle.st, hidle.memory, hidle.regs, hidle.index, hidle.pc, hidle.stack,
    hidle.display, hidle.status, hidle.wordAtPC_eq⟩
  rw [← decide_eq_decide.2 hsound]
  rfl

/-! ## The fault table (R151, R153) -/

section
variable {s : State}

/-- Where the column "when" of R151 holds, the instruction raises the fault of its row. -/
theorem exec_raises_of_faultsWhen : ∀ {i : Instr}, faultsWhen i s →
    ∃ f, exec i s = raise f s ∧ f.code = faultCodeOf i
  | .ret, h => ⟨_, exec_ret_of_empty h, rfl⟩
  | .callAddr nnn, h => ⟨_, exec_callAddr_of_full h nnn, rfl⟩
  | .drwVxVyNibble .., ⟨hn, hrange⟩ =>
    ⟨_, exec_drwVxVyNibble_of_gt hrange ((BitVec.pos_iff_ne_zero _).1 ((BitVec.toNat_pos _).1 hn)), rfl⟩
  | .ldBVx _, h => ⟨_, exec_ldBVx_of_gt h, rfl⟩
  | .ldMemVx _, h => ⟨_, exec_ldMemVx_of_gt h, rfl⟩
  | .ldVxMem _, h => ⟨_, exec_ldVxMem_of_gt h, rfl⟩
  | .skpVx _, h => ⟨_, exec_skpVx_of_gt h, rfl⟩
  | .sknpVx _, h => ⟨_, exec_sknpVx_of_gt h, rfl⟩

theorem inRange_of_not_faultsWhen_drwVxVyNibble {x y : RegId} {n : Nibble} (h : ¬faultsWhen (.drwVxVyNibble x y n) s) :
    n = 0#4 ∨ s.i.toNat + n.toNat - 1 ≤ 4095 := by
  obtain hn | hrange := not_and_or.1 h
  · exact .inl (BitVec.eq_of_toNat_eq (by simpa using hn))
  · exact .inr (Nat.not_lt.1 hrange)

theorem State.writeLogic_halted (s : State) (x : RegId) (r : Byte) : (s.writeLogic x r).halted = s.halted := by
  unfold State.writeLogic
  split <;> rfl

/-- LD Vx, K raises no fault, whether or not a key is down (R144). -/
theorem execLdVxK_keepsHalted (x : RegId) : ∃ t, execLdVxK x s = .next t ∧ t.halted = s.halted := by
  refine ⟨_, rfl, ?_⟩
  split <;> rfl

/-- Where the column "when" of R151 does not hold, and for an instruction without a row, no fault is raised. -/
theorem exec_keepsHalted_of_not_faultsWhen : ∀ {i : Instr}, ¬faultsWhen i s →
    ∃ t, exec i s = .next t ∧ t.halted = s.halted
  | .ret, h => ⟨_, exec_ret_of_not_empty h, rfl⟩
  | .callAddr nnn, h => ⟨_, exec_callAddr_of_not_full h nnn, rfl⟩
  | .drwVxVyNibble .., h => ⟨_, exec_drwVxVyNibble_of_le (inRange_of_not_faultsWhen_drwVxVyNibble h), rfl⟩
  | .ldBVx _, h => ⟨_, exec_ldBVx_of_le (Nat.not_lt.1 h), rfl⟩
  | .ldMemVx _, h => ⟨_, exec_ldMemVx_of_le (Nat.not_lt.1 h), rfl⟩
  | .ldVxMem _, h => ⟨_, exec_ldVxMem_of_le (Nat.not_lt.1 h), rfl⟩
  | .skpVx _, h => ⟨_, exec_skpVx_of_le (Nat.not_lt.1 h), rfl⟩
  | .sknpVx _, h => ⟨_, exec_sknpVx_of_le (Nat.not_lt.1 h), rfl⟩
  | .ldVxK x, _ => execLdVxK_keepsHalted x
  | .orVxVy .., _ | .andVxVy .., _ | .xorVxVy .., _ => ⟨_, rfl, s.writeLogic_halted ..⟩
  | .cls, _ | .jpAddr _, _ | .seVxByte .., _ | .sneVxByte .., _ | .seVxVy .., _ | .sneVxVy .., _ | .ldVxByte .., _
  | .addVxByte .., _ | .ldVxVy .., _ | .addVxVy .., _ | .subVxVy .., _ | .shrVx .., _ | .subnVxVy .., _ | .shlVx .., _
  | .ldIAddr _, _ | .jpVxAddr .., _ | .rndVxByte .., _ | .ldVxDT _, _ | .ldDTVx _, _ | .ldSTVx _, _ | .addIVx _, _
  | .ldFVx _, _ => ⟨_, rfl, rfl⟩

end

/-- Settles O50: the instruction raises its row's fault where "when" holds, and leaves the core running elsewhere. -/
theorem instructionsFaultExactlyWhenTheTableSays : Obligations.InstructionsFaultExactlyWhenTheTableSays := by
  intro i s t hrun h
  by_cases hwhen : faultsWhen i s
  · obtain ⟨f, hraise, hcode⟩ := exec_raises_of_faultsWhen hwhen
    obtain rfl := Host.Outcome.next.inj (h.symm.trans hraise)
    exact ⟨iff_of_true rfl hwhen, fun _ => hcode⟩
  · obtain ⟨u, hu, hkeeps⟩ := exec_keepsHalted_of_not_faultsWhen hwhen
    obtain rfl := Host.Outcome.next.inj (h.symm.trans hu)
    have hrun' : ¬t.halted = true := by simp [hkeeps, hrun]
    exact ⟨iff_of_false hrun' hwhen, fun hhalted => absurd hhalted hrun'⟩

/-! ## Fault entry and the halted state (R155, R156, R158) -/

/-- Settles O49: a cycle that ends halted entered a fault from its own start, and neither writes state of the core but
the status registers. -/
theorem faultsArePrecise : Obligations.FaultsArePrecise := by
  rintro s t ⟨key, rnd, hm⟩ hrun h hhalted
  obtain ⟨f, rfl⟩ | ⟨hrun', -⟩ := cycle_faults_or_ticks hm hrun h
  · obtain ⟨-, -, -, hout, hkeeps, -⟩ := (s.beginCycle key rnd).enterFault_faultEntered f
    exact ⟨hkeeps, hout⟩
  · exact absurd (hrun'.symm.trans hhalted) Bool.false_ne_true

/-- Settles O48, by the host's three moves: a halted core's cycle goes no further than its start, and the load port
writes memory alone. -/
theorem onlyResetLeavesTheHaltedState : Obligations.OnlyResetLeavesTheHaltedState := by
  intro s t hhalted h hrun
  obtain ⟨key, rnd, -, hbody⟩ | ⟨hreset, -⟩ | ⟨a, b, -, -, rfl⟩ := step_cases h
  · obtain rfl := Host.Outcome.next.inj (hbody.symm.trans (cycleBody_halted _ hhalted))
    exact absurd (hrun.symm.trans hhalted) Bool.false_ne_true
  · exact hreset
  · exact absurd (hrun.symm.trans hhalted) Bool.false_ne_true

end Sys2Proof.Machine

/-! SUPPORT. The family of the reset and the hazards: the boot sequence as moves run one by one, the moves every step
answers, and a CALL to itself run until the call stack is full (spec/70_reset_and_hazards.md R183 to R185, R189). -/

namespace Sys2Proof.Machine

/-! ## Every step answers but a late load (R185) -/

/-- A cycle answers a next state in each of its cases: halted, fetch fault, illegal word, legal word (logs 9 and 10). -/
theorem cycleBody_answers_next (s : State) : ∃ t, cycleBody s = .next t := by
  obtain ⟨-, h⟩ | ⟨-, -, h⟩ | ⟨-, -, -, h⟩ | ⟨-, -, _, _, -, -, h⟩ := cycleBody_cases s
  all_goals exact ⟨_, h⟩

theorem step_of_load_open {s : State} {a : Addr12} {b : Byte} (hm : s.nextMove = .load a b) (h : s.started = false) :
    step s = .next (s.hostLoad a b) := by
  rw [step_of_load hm, h]
  rfl

theorem step_of_load_closed {s : State} {a : Addr12} {b : Byte} (hm : s.nextMove = .load a b) (h : s.started = true) :
    step s = .refused .loadAfterFirstCycle := by
  rw [step_of_load hm, h]
  rfl

/-- Settles O47, by the host's three moves: only a load is ever refused, and only once a cycle was requested. -/
theorem onlyALateLoadStopsAStep : Obligations.OnlyALateLoadStopsAStep := by
  intro s
  cases hm : s.nextMove with
  | cycle key rnd =>
    obtain ⟨t, ht⟩ := cycleBody_answers_next (s.beginCycle key rnd)
    exact .inl ⟨t, (step_of_cycle hm).trans ht⟩
  | reset => exact .inl ⟨_, step_of_reset hm⟩
  | load a b =>
    cases hstarted : s.started with
    | false => exact .inl ⟨_, step_of_load_open hm hstarted⟩
    | true => exact .inr ⟨step_of_load_closed hm hstarted, rfl, a, b, rfl⟩

/-! ## The boot sequence (R183, R184) -/

/-- Before the first cycle the load moves of an image within memory are one store of its bytes: the whole state after
them. The bound keeps each address in the port's 12 bits. -/
theorem run_loadMoves {rest : List HostMove} (image : List Byte) : ∀ {s : State} {a : Nat}, s.started = false →
    s.host = loadMoves a image ++ rest → a + image.length ≤ 4096 →
    s.run image.length = .next { s.storeBytes a image with host := rest } := by
  induction image with
  | nil =>
    rintro s a - rfl -
    rfl
  | cons b bs ih =>
    intro s a hopen hhost hfits
    rw [List.length_cons] at hfits
    have haddr : (BitVec.ofNat 12 a).toNat = a := Nat.mod_eq_of_lt (by omega)
    have hstep := step_of_load_open (State.nextMove_of_host hhost) hopen
    have hhost' : (s.hostLoad (BitVec.ofNat 12 a) b).host = loadMoves (a + 1) bs ++ rest := congrArg List.tail hhost
    rw [List.length_cons, State.run_succ _ _ _ hstep, ih (s := s.hostLoad _ b) hopen hhost' (by omega)]
    simp only [State.storeBytes, State.hostLoad, Memory.storeBytes, haddr]

/-- Settles O16: the reset, and then the load moves, which are one store of the image into the reset state. -/
theorem bootSequenceLoadsTheImage : Obligations.BootSequenceLoadsTheImage := by
  refine fun image => ⟨fun hlong => if_neg (Nat.not_le.2 hlong), fun hfits =>
    ⟨_, if_pos hfits, fun s rest hhost => ?_⟩⟩
  have hreset := step_of_reset (State.nextMove_of_host hhost)
  have hloads : s.hostReset.host = loadMoves 0x200 image ++ rest := congrArg List.tail hhost
  have hrun := run_loadMoves image s.hostReset_started hloads (by omega)
  refine ⟨{ s.hostReset.storeBytes 0x200 image with host := rest }, ?_, fun k hk => ?_, fun a ha => ?_,
    rfl, rfl, rfl, rfl, rfl, State.resetAt_pixel s.cfg s.drawn, rfl, rfl⟩
  · rw [List.length_cons, loadMoves_length, State.run_succ _ _ _ hreset, hrun]
  · exact read_storeBytes_inside _ 0x200 k image hk
  · exact (read_storeBytes_outside _ 0x200 a image ha).trans (read_resetMemory s.cfg a)

/-! ## A CALL to itself (R93, R189) -/

/-- PC names a CALL to its own address. -/
def State.callsItself (s : State) : Prop :=
  s.pc.toNat ≤ 4094 ∧ ∃ nnn, decodeWord s.wordAtPC = .ok (.callAddr nnn) ∧ zext12 nnn = s.pc

theorem State.callsItself_of_keepsMemory {s t : State} (hs : s.callsItself) (hmem : KeepsMemory s t)
    (hpc : t.pc = s.pc) : t.callsItself := by
  rwa [State.callsItself, State.wordAtPC, hpc, hmem, hmem]

section
variable {s : State} (hs : s.callsItself) (hc : s.cycleNext) (hrun : s.halted = false)
include hs hc hrun

/-- A CALL to itself on a stack that is not full nests once more, on the same CALL. -/
theorem step_nests_of_callsItself (hroom : s.sp ≠ 15#4) :
    ∃ t, step s = .next t ∧ t.callsItself ∧ t.pc = s.pc ∧ t.sp = s.sp + 1#4 ∧ t.halted = false := by
  obtain ⟨key, rnd, hm⟩ := hc
  have ⟨hpc, nnn, hd, htarget⟩ := hs
  have hexec := exec_callAddr_of_not_full (s := s.beginCycle key rnd) hroom nnn
  exact ⟨_, step_of_legal_running hm hrun hpc hd hexec hrun,
    State.callsItself_of_keepsMemory hs (fun _ => rfl) htarget, htarget, rfl, hrun⟩

/-- A CALL to itself on a full stack enters the fault, on the same CALL. -/
theorem step_halts_of_callsItself (hfull : s.sp = 15#4) :
    ∃ t, step s = .next t ∧ t.callsItself ∧ t.pc = s.pc ∧ t.sp = s.sp ∧ t.halted = true ∧ t.cause = 4#3 := by
  obtain ⟨key, rnd, hm⟩ := hc
  have ⟨hpc, nnn, hd, _⟩ := hs
  have hexec := exec_callAddr_of_full (s := s.beginCycle key rnd) hfull nnn
  exact ⟨_, step_of_legal hm hrun hpc hd hexec, State.callsItself_of_keepsMemory hs (fun _ => rfl) rfl, rfl, rfl,
    rfl, rfl⟩

end

/-- `n` cycles after `s`, on a CALL to itself from an empty stack: one level for each cycle up to fifteen, and the core
halted by the stack overflow after that. -/
structure NestsCalls (s : State) (n : Nat) (t : State) : Prop where
  callsItself : t.callsItself
  pc : t.pc = s.pc
  depth : t.sp.toNat = min n 15
  halted : t.halted = decide (15 < n)
  cause : 15 < n → t.cause = 4#3

/-- A cycle nests once more, halts the core on a full stack, or finds it halted. -/
theorem NestsCalls.step {s t : State} {n : Nat} (hc : t.cycleNext) (h : NestsCalls s n t) :
    ∃ u, step t = .next u ∧ NestsCalls s (n + 1) u := by
  obtain ⟨hcalls, hpc, hdepth, hhalted, hcause⟩ := h
  obtain hroom | rfl | hover := Nat.lt_trichotomy n 15
  · have hrun : t.halted = false := hhalted.trans (decide_eq_false (by omega))
    have hsp : t.sp ≠ 15#4 := by bv_omega
    obtain ⟨u, hstep, hcalls', hpc', hsp', hrun'⟩ := step_nests_of_callsItself hcalls hc hrun hsp
    refine ⟨u, hstep, hcalls', hpc'.trans hpc, ?_, hrun'.trans (decide_eq_false (by omega)).symm, fun _ => by omega⟩
    rw [hsp']
    bv_omega
  · have hfull : t.sp = 15#4 := BitVec.eq_of_toNat_eq hdepth
    obtain ⟨u, hstep, hcalls', hpc', hsp', hhalted', hcause'⟩ := step_halts_of_callsItself hcalls hc hhalted hfull
    exact ⟨u, hstep, hcalls', hpc'.trans hpc, hsp' ▸ hdepth, hhalted', fun _ => hcause'⟩
  · have hhalt : t.halted = true := hhalted.trans (decide_eq_true hover)
    have hdepth' : t.sp.toNat = min (n + 1) 15 := by omega
    obtain ⟨key, rnd, hm⟩ := hc
    exact ⟨t.beginCycle key rnd, (step_of_cycle hm).trans (cycleBody_halted _ hhalt), hcalls, hpc, hdepth',
      hhalt.trans (decide_eq_true (by omega)).symm, fun _ => hcause hover⟩

theorem State.cyclesNext_of_le {m n : Nat} {s : State} (h : s.cyclesNext n) (hmn : m ≤ n) : s.cyclesNext m :=
  fun _ hmem => h _ ((List.take_sublist_take_left hmn).mem hmem)

/-- Settles O59, by induction over the cycles: up to fifteen each adds a level, and the sixteenth finds the stack
full. -/
theorem sixteenthNestedCallHalts : Obligations.SixteenthNestedCallHalts := by
  intro s nnn hrun hpc hempty hcs hd htarget
  have hstart : NestsCalls s 0 s := ⟨⟨hpc, nnn, hd, htarget⟩, rfl, congrArg BitVec.toNat hempty, hrun, nofun⟩
  have hnests : ∀ n, n ≤ 16 → ∃ t, s.run n = .next t ∧ NestsCalls s n t := by
    intro n hn
    have := State.run_of_cycles (fun _ _ => NestsCalls.step) n (State.cyclesNext_of_le hcs hn) hstart
    rwa [Nat.zero_add] at this
  refine ⟨fun n hn => ?_, ?_⟩
  · obtain ⟨t, ht, h⟩ := hnests n (by omega)
    exact ⟨t, ht, h.halted.trans (decide_eq_false (by omega)), h.depth.trans (min_eq_left hn), h.pc⟩
  · obtain ⟨t, ht, h⟩ := hnests 16 (Nat.le_refl _)
    exact ⟨t, ht, h.halted, h.cause (by decide), BitVec.eq_of_toNat_eq h.depth⟩

end Sys2Proof.Machine
